-- ==== Sys2Proof/Word.lean ====
section
/-! DEFINITION. The words of the machine: the widths the spec gives its values. -/

namespace Sys2Proof

/-- An 8-bit value: a V register, a byte of MEM, a timer (10_state.md R10, R16, R18, R19). -/
abbrev Byte := BitVec 8

/-- A 16-bit value: I, PC, SP, a stack entry, an opcode (10_state.md R12 to R15, 30_encoding.md R60). -/
abbrev Word := BitVec 16

/-- A 4-bit field of an opcode, and so a register index 0 to 15 (30_encoding.md R62, R63). -/
abbrev Nibble := BitVec 4

/-- A 12-bit address field `NNN` (30_encoding.md R63). -/
abbrev Addr12 := BitVec 12

end Sys2Proof
end

