-- ==== Sys2Proof/Syntax.lean ====
section
/-! DEFINITION. The instructions: one constructor per row of spec/opcode_table.json, in the table's order. -/

namespace Sys2Proof

/-- An instruction of the machine (30_encoding.md R65). `x`, `y`, `n`, `nn`, `nnn` are the opcode's fields X, Y, N,
NN, NNN (R63). A field the instruction ignores (R66) is kept, because FAULT.opcode reports the whole opcode
(10_state.md R26): `low` of the two register skips, `y` of the shifts, `nnn` of Sys, the opcode of Nop. -/
inductive Instr where
  /-- 00E0, 44_display_random.md R150. -/
  | clear
  /-- 00EE, 40_control_flow.md R102. -/
  | ret
  /-- 0NNN, 40_control_flow.md R100. -/
  | sys (nnn : Addr12)
  /-- 1NNN, 40_control_flow.md R101. -/
  | jump (nnn : Addr12)
  /-- 2NNN, 40_control_flow.md R104. -/
  | call (nnn : Addr12)
  /-- 3XNN, 41_skips.md R110. -/
  | skipEqConst (x : Nibble) (nn : Byte)
  /-- 4XNN, 41_skips.md R111. -/
  | skipNeConst (x : Nibble) (nn : Byte)
  /-- 5XY-, 41_skips.md R112. -/
  | skipEqVal (x y low : Nibble)
  /-- 6XNN, 42_load_alu.md R121. -/
  | loadConst (x : Nibble) (nn : Byte)
  /-- 7XNN, 42_load_alu.md R122. -/
  | addConst (x : Nibble) (nn : Byte)
  /-- 8XY0, 42_load_alu.md R123. -/
  | loadVal (x y : Nibble)
  /-- 8XY1, 42_load_alu.md R124. -/
  | orVal (x y : Nibble)
  /-- 8XY2, 42_load_alu.md R125. -/
  | andVal (x y : Nibble)
  /-- 8XY3, 42_load_alu.md R126. -/
  | xorVal (x y : Nibble)
  /-- 8XY4, 42_load_alu.md R127. -/
  | addVal (x y : Nibble)
  /-- 8XY5, 42_load_alu.md R128. -/
  | subVal (x y : Nibble)
  /-- 8XY6, 42_load_alu.md R129. -/
  | shiftRight (x y : Nibble)
  /-- 8XY7, 42_load_alu.md R130. -/
  | subValInverse (x y : Nibble)
  /-- 8XYE, 42_load_alu.md R131. -/
  | shiftLeft (x y : Nibble)
  /-- 9XY-, 41_skips.md R113. -/
  | skipNeVal (x y low : Nibble)
  /-- ANNN, 43_index_memory.md R140. -/
  | loadIndex (nnn : Addr12)
  /-- BNNN, 40_control_flow.md R105. -/
  | jumpOffset (nnn : Addr12)
  /-- CXNN, 44_display_random.md R152. -/
  | random (x : Nibble) (nn : Byte)
  /-- DXYN, 44_display_random.md R151. -/
  | drawSprite (x y n : Nibble)
  /-- EX9E, 41_skips.md R114. -/
  | skipKeyDown (x : Nibble)
  /-- EXA1, 41_skips.md R115. -/
  | skipKeyUp (x : Nibble)
  /-- FX07, 45_timers_keys.md R160. -/
  | getDelay (x : Nibble)
  /-- FX0A, 45_timers_keys.md R161. -/
  | waitForNextKeyPress (x : Nibble)
  /-- FX15, 45_timers_keys.md R162. -/
  | setDelay (x : Nibble)
  /-- FX18, 45_timers_keys.md R163. -/
  | setSound (x : Nibble)
  /-- FX1E, 43_index_memory.md R141. -/
  | addIndex (x : Nibble)
  /-- FX29, 43_index_memory.md R142. -/
  | fontIndex (x : Nibble)
  /-- FX33, 43_index_memory.md R143. -/
  | storeBCD (x : Nibble)
  /-- FX55, 43_index_memory.md R144. -/
  | regDump (x : Nibble)
  /-- FX65, 43_index_memory.md R145. -/
  | regLoad (x : Nibble)
  /-- The catch-all, 40_control_flow.md R106: any opcode of 30_encoding.md R67. -/
  | nop (op : Word)
  deriving DecidableEq, Repr

end Sys2Proof
end

