-- ==== Sys2Proof/WellFormed.lean ====
section
/-! DEFINITION. Which instructions have a word of their own: Sys is family 0 without the two literals
(30_encoding.md R65, R68), Nop is exactly the unrecognised opcodes (30_encoding.md R67). -/

namespace Sys2Proof

/-- The opcodes that match no named row, as 30_encoding.md R67 lists them by family. -/
def unrecognised (op : Word) : Bool :=
  let family := op.extractLsb' 12 4
  let n := op.extractLsb' 0 4
  let nn := op.extractLsb' 0 8
  if family = 0x8 then n = 0x8 || n = 0x9 || n = 0xA || n = 0xB || n = 0xC || n = 0xD || n = 0xF
  else if family = 0xE then nn ≠ 0x9E && nn ≠ 0xA1
  else if family = 0xF then
    nn ≠ 0x07 && nn ≠ 0x0A && nn ≠ 0x15 && nn ≠ 0x18 && nn ≠ 0x1E && nn ≠ 0x29 && nn ≠ 0x33 && nn ≠ 0x55 && nn ≠ 0x65
  else false

/-- Well-formed instructions: those that some opcode selects. Every field of every other constructor may hold
any value of its width (30_encoding.md R63). -/
def Instr.wf : Instr → Bool
  | .sys nnn => nnn ≠ 0x0E0 && nnn ≠ 0x0EE
  | .nop op => unrecognised op
  | .clear | .ret | .jump _ | .call _ | .skipEqConst _ _ | .skipNeConst _ _ | .skipEqVal _ _ _ | .loadConst _ _
  | .addConst _ _ | .loadVal _ _ | .orVal _ _ | .andVal _ _ | .xorVal _ _ | .addVal _ _ | .subVal _ _
  | .shiftRight _ _ | .subValInverse _ _ | .shiftLeft _ _ | .skipNeVal _ _ _ | .loadIndex _ | .jumpOffset _
  | .random _ _ | .drawSprite _ _ _ | .skipKeyDown _ | .skipKeyUp _ | .getDelay _ | .waitForNextKeyPress _
  | .setDelay _ | .setSound _ | .addIndex _ | .fontIndex _ | .storeBCD _ | .regDump _ | .regLoad _ => true

end Sys2Proof
end

