-- ==== Sys2Proof/Decode.lean ====
section
/-! DEFINITION. The dispatch table as an explicit decode step (30_encoding.md R61, R64, R65), total on words and on
bytes, then the encoder written from the same formats, then the table's rows with the rule that selects among them. -/

namespace Sys2Proof

/-! ### Fields of an opcode (30_encoding.md R62) -/

/-- The leading nibble, "the primary dispatch discriminator". -/
def family (op : Word) : Nibble := op.extractLsb' 12 4

/-- `X = op[11:8]`. -/
def fieldX (op : Word) : Nibble := op.extractLsb' 8 4

/-- `Y = op[7:4]`. -/
def fieldY (op : Word) : Nibble := op.extractLsb' 4 4

/-- `N = op[3:0]`. -/
def fieldN (op : Word) : Nibble := op.extractLsb' 0 4

/-- `NN = op[7:0]`. -/
def fieldNN (op : Word) : Byte := op.extractLsb' 0 8

/-- `NNN = op[11:0]`. -/
def fieldNNN (op : Word) : Addr12 := op.extractLsb' 0 12

/-- The opcode of two fetched bytes: the byte at the lower address is the high byte (20_memory.md R44). -/
def joinBytes (hi lo : Byte) : Word := hi ++ lo

/-- The byte of an opcode that stands at the lower address (20_memory.md R44). -/
def highByte (op : Word) : Byte := op.extractLsb' 8 8

/-- The byte of an opcode that stands at the higher address (20_memory.md R44). -/
def lowByte (op : Word) : Byte := op.extractLsb' 0 8

/-! ### The decoder -/

/-- Family 0: the two literals override Sys (30_encoding.md R64, R65). -/
def decodeFamily0 (op : Word) : Instr :=
  if op = 0x00E0 then .clear else if op = 0x00EE then .ret else .sys (fieldNNN op)

/-- Family 8, on the trailing nibble (30_encoding.md R65, decision D6). -/
def decodeFamily8 (op : Word) : Instr :=
  let x := fieldX op
  let y := fieldY op
  let n := fieldN op
  if n = 0x0 then .loadVal x y
  else if n = 0x1 then .orVal x y
  else if n = 0x2 then .andVal x y
  else if n = 0x3 then .xorVal x y
  else if n = 0x4 then .addVal x y
  else if n = 0x5 then .subVal x y
  else if n = 0x6 then .shiftRight x y
  else if n = 0x7 then .subValInverse x y
  else if n = 0xE then .shiftLeft x y
  else .nop op

/-- Family E, on the trailing byte (30_encoding.md R65, decision D6). -/
def decodeFamilyE (op : Word) : Instr :=
  let nn := fieldNN op
  if nn = 0x9E then .skipKeyDown (fieldX op)
  else if nn = 0xA1 then .skipKeyUp (fieldX op)
  else .nop op

/-- Family F, on the trailing byte (30_encoding.md R65, decision D6). -/
def decodeFamilyF (op : Word) : Instr :=
  let x := fieldX op
  let nn := fieldNN op
  if nn = 0x07 then .getDelay x
  else if nn = 0x0A then .waitForNextKeyPress x
  else if nn = 0x15 then .setDelay x
  else if nn = 0x18 then .setSound x
  else if nn = 0x1E then .addIndex x
  else if nn = 0x29 then .fontIndex x
  else if nn = 0x33 then .storeBCD x
  else if nn = 0x55 then .regDump x
  else if nn = 0x65 then .regLoad x
  else .nop op

/-- The dispatch table: a total function from the 65536 opcodes to an instruction (30_encoding.md R61, R65). -/
def decodeWord (op : Word) : Instr :=
  let f := family op
  if f = 0x0 then decodeFamily0 op
  else if f = 0x1 then .jump (fieldNNN op)
  else if f = 0x2 then .call (fieldNNN op)
  else if f = 0x3 then .skipEqConst (fieldX op) (fieldNN op)
  else if f = 0x4 then .skipNeConst (fieldX op) (fieldNN op)
  else if f = 0x5 then .skipEqVal (fieldX op) (fieldY op) (fieldN op)
  else if f = 0x6 then .loadConst (fieldX op) (fieldNN op)
  else if f = 0x7 then .addConst (fieldX op) (fieldNN op)
  else if f = 0x8 then decodeFamily8 op
  else if f = 0x9 then .skipNeVal (fieldX op) (fieldY op) (fieldN op)
  else if f = 0xA then .loadIndex (fieldNNN op)
  else if f = 0xB then .jumpOffset (fieldNNN op)
  else if f = 0xC then .random (fieldX op) (fieldNN op)
  else if f = 0xD then .drawSprite (fieldX op) (fieldY op) (fieldN op)
  else if f = 0xE then decodeFamilyE op
  else decodeFamilyF op

/-- Why bytes do not decode: every word decodes (30_encoding.md R61), so only a missing byte can be the reason. -/
inductive DecodeError where
  /-- Fewer than the two bytes every instruction has (30_encoding.md R60). -/
  | truncated
  deriving DecidableEq, Repr

/-- The instruction at the front of a list of bytes, the byte at the lowest address first, and the bytes after it. -/
def decode : List Byte → Except DecodeError (Instr × List Byte)
  | hi :: lo :: rest => .ok (decodeWord (joinBytes hi lo), rest)
  | _ => .error .truncated

/-- The bytes of a table word of `nbits` bits, as memory holds them: bits from `nbits` up are 0, the high byte first. -/
def tableBytes (nbits w : Nat) : List Byte :=
  let op : Word := BitVec.ofNat 16 (w % 2 ^ min nbits 16)
  [highByte op, lowByte op]

/-- What the decoder reads from a word numbered as spec/opcode_table.json numbers it; no instruction is longer
than 16 bits (30_encoding.md R60). -/
def decodeTableWord (nbits w : Nat) : Option Instr :=
  if nbits ≤ 16 then
    match decode (tableBytes nbits w) with
    | .ok (i, _) => some i
    | .error _ => none
  else none

/-! ### The encoder, by the formats of 30_encoding.md R64 -/

/-- Format ADDR: `f NNN`. -/
def wordADDR (f : Nibble) (nnn : Addr12) : Word := f ++ nnn

/-- Format XNN: `f X NN`. -/
def wordXNN (f x : Nibble) (nn : Byte) : Word := f ++ x ++ nn

/-- Formats XY, XYN and XYS: `f X Y n`. -/
def wordXYN (f x y n : Nibble) : Word := f ++ x ++ y ++ n

/-- The opcode of an instruction (30_encoding.md R64, R65). -/
def encode : Instr → Word
  | .clear => 0x00E0
  | .ret => 0x00EE
  | .sys nnn => wordADDR 0x0 nnn
  | .jump nnn => wordADDR 0x1 nnn
  | .call nnn => wordADDR 0x2 nnn
  | .skipEqConst x nn => wordXNN 0x3 x nn
  | .skipNeConst x nn => wordXNN 0x4 x nn
  | .skipEqVal x y low => wordXYN 0x5 x y low
  | .loadConst x nn => wordXNN 0x6 x nn
  | .addConst x nn => wordXNN 0x7 x nn
  | .loadVal x y => wordXYN 0x8 x y 0x0
  | .orVal x y => wordXYN 0x8 x y 0x1
  | .andVal x y => wordXYN 0x8 x y 0x2
  | .xorVal x y => wordXYN 0x8 x y 0x3
  | .addVal x y => wordXYN 0x8 x y 0x4
  | .subVal x y => wordXYN 0x8 x y 0x5
  | .shiftRight x y => wordXYN 0x8 x y 0x6
  | .subValInverse x y => wordXYN 0x8 x y 0x7
  | .shiftLeft x y => wordXYN 0x8 x y 0xE
  | .skipNeVal x y low => wordXYN 0x9 x y low
  | .loadIndex nnn => wordADDR 0xA nnn
  | .jumpOffset nnn => wordADDR 0xB nnn
  | .random x nn => wordXNN 0xC x nn
  | .drawSprite x y n => wordXYN 0xD x y n
  | .skipKeyDown x => wordXNN 0xE x 0x9E
  | .skipKeyUp x => wordXNN 0xE x 0xA1
  | .getDelay x => wordXNN 0xF x 0x07
  | .waitForNextKeyPress x => wordXNN 0xF x 0x0A
  | .setDelay x => wordXNN 0xF x 0x15
  | .setSound x => wordXNN 0xF x 0x18
  | .addIndex x => wordXNN 0xF x 0x1E
  | .fontIndex x => wordXNN 0xF x 0x29
  | .storeBCD x => wordXNN 0xF x 0x33
  | .regDump x => wordXNN 0xF x 0x55
  | .regLoad x => wordXNN 0xF x 0x65
  | .nop op => op

/-- The bytes of an instruction in memory, the high byte at the lower address (20_memory.md R44). -/
def encodeBytes (i : Instr) : List Byte := [highByte (encode i), lowByte (encode i)]

/-! ### The table's rows and the selection among them (30_encoding.md R64, R65) -/

/-- A row of the table: its mnemonic, `match` and `mask`. -/
structure Row where
  mnemonic : String
  pattern : Word
  mask : Word
  deriving DecidableEq, Repr

/-- An opcode matches a row when `op & mask = match`. -/
def Row.covers (r : Row) (op : Word) : Bool := op &&& r.mask = r.pattern

/-- The `LIT` rows, mask 0xFFFF. -/
def rowsLIT : List Row := [⟨"Clear", 0x00E0, 0xFFFF⟩, ⟨"Return", 0x00EE, 0xFFFF⟩]

/-- The `XSS` rows, mask 0xF0FF. -/
def rowsXSS : List Row :=
  [⟨"SkipKeyDown", 0xE09E, 0xF0FF⟩, ⟨"SkipKeyUp", 0xE0A1, 0xF0FF⟩, ⟨"GetDelay", 0xF007, 0xF0FF⟩,
   ⟨"WaitForNextKeyPress", 0xF00A, 0xF0FF⟩, ⟨"SetDelay", 0xF015, 0xF0FF⟩, ⟨"SetSound", 0xF018, 0xF0FF⟩,
   ⟨"AddIndex", 0xF01E, 0xF0FF⟩, ⟨"FontIndex", 0xF029, 0xF0FF⟩, ⟨"StoreBCD", 0xF033, 0xF0FF⟩,
   ⟨"RegDump", 0xF055, 0xF0FF⟩, ⟨"RegLoad", 0xF065, 0xF0FF⟩]

/-- The `XYS` rows, mask 0xF00F. -/
def rowsXYS : List Row :=
  [⟨"LoadVal", 0x8000, 0xF00F⟩, ⟨"OrVal", 0x8001, 0xF00F⟩, ⟨"AndVal", 0x8002, 0xF00F⟩, ⟨"XorVal", 0x8003, 0xF00F⟩,
   ⟨"AddVal", 0x8004, 0xF00F⟩, ⟨"SubVal", 0x8005, 0xF00F⟩, ⟨"ShiftRight", 0x8006, 0xF00F⟩,
   ⟨"SubValInverse", 0x8007, 0xF00F⟩, ⟨"ShiftLeft", 0x800E, 0xF00F⟩]

/-- The `ADDR`, `XNN`, `XY` and `XYN` rows, mask 0xF000. -/
def rowsFamily : List Row :=
  [⟨"Sys", 0x0000, 0xF000⟩, ⟨"Jump", 0x1000, 0xF000⟩, ⟨"Call", 0x2000, 0xF000⟩, ⟨"SkipEqConst", 0x3000, 0xF000⟩,
   ⟨"SkipNeConst", 0x4000, 0xF000⟩, ⟨"SkipEqVal", 0x5000, 0xF000⟩, ⟨"LoadConst", 0x6000, 0xF000⟩,
   ⟨"AddConst", 0x7000, 0xF000⟩, ⟨"SkipNeVal", 0x9000, 0xF000⟩, ⟨"LoadIndex", 0xA000, 0xF000⟩,
   ⟨"JumpOffset", 0xB000, 0xF000⟩, ⟨"Random", 0xC000, 0xF000⟩, ⟨"DrawSprite", 0xD000, 0xF000⟩]

/-- The catch-all row, mask 0. -/
def rowNop : Row := ⟨"Nop", 0x0000, 0x0000⟩

/-- The 36 rows. Among those that cover an opcode, "the row with the most 1 bits in its mask wins". -/
def table : List Row := rowsLIT ++ rowsXSS ++ rowsXYS ++ rowsFamily ++ [rowNop]

/-- How many 1 bits a word has. -/
def countOnes (w : Word) : Nat :=
  ((List.range 16).filter fun k => w.getLsbD k).length

/-- The number of 1 bits in a row's mask, by which the selection among the matching rows goes. -/
def Row.maskBits (r : Row) : Nat := countOnes r.mask

/-- The mnemonic of an instruction's row (30_encoding.md R65). -/
def Instr.mnemonic : Instr → String
  | .clear => "Clear"
  | .ret => "Return"
  | .sys _ => "Sys"
  | .jump _ => "Jump"
  | .call _ => "Call"
  | .skipEqConst _ _ => "SkipEqConst"
  | .skipNeConst _ _ => "SkipNeConst"
  | .skipEqVal _ _ _ => "SkipEqVal"
  | .loadConst _ _ => "LoadConst"
  | .addConst _ _ => "AddConst"
  | .loadVal _ _ => "LoadVal"
  | .orVal _ _ => "OrVal"
  | .andVal _ _ => "AndVal"
  | .xorVal _ _ => "XorVal"
  | .addVal _ _ => "AddVal"
  | .subVal _ _ => "SubVal"
  | .shiftRight _ _ => "ShiftRight"
  | .subValInverse _ _ => "SubValInverse"
  | .shiftLeft _ _ => "ShiftLeft"
  | .skipNeVal _ _ _ => "SkipNeVal"
  | .loadIndex _ => "LoadIndex"
  | .jumpOffset _ => "JumpOffset"
  | .random _ _ => "Random"
  | .drawSprite _ _ _ => "DrawSprite"
  | .skipKeyDown _ => "SkipKeyDown"
  | .skipKeyUp _ => "SkipKeyUp"
  | .getDelay _ => "GetDelay"
  | .waitForNextKeyPress _ => "WaitForNextKeyPress"
  | .setDelay _ => "SetDelay"
  | .setSound _ => "SetSound"
  | .addIndex _ => "AddIndex"
  | .fontIndex _ => "FontIndex"
  | .storeBCD _ => "StoreBCD"
  | .regDump _ => "RegDump"
  | .regLoad _ => "RegLoad"
  | .nop _ => "Nop"

end Sys2Proof
end

