-- ==== Sys2Proof/Machine/Flags.lean ====
section
/-! DEFINITION. Every flag computation of the spec (42_load_alu.md R132, R133): all of them go to VF. -/

namespace Sys2Proof.Machine

/-- A flag as VF holds it: 1 or 0 (10_state.md R11). -/
def flagByte (b : Bool) : Byte := if b then 1 else 0

/-- AddVal's carry: the unmodular sum exceeds 255 (42_load_alu.md R127, R132). -/
def addCarry (vx vy : Byte) : Bool := 255 < vx.toNat + vy.toNat

/-- No borrow in `p - q`: minuend ≥ subtrahend (42_load_alu.md R128, R130, R132). -/
def noBorrow (p q : Byte) : Bool := q.toNat ≤ p.toNat

/-- The bit a right shift moves out: bit 0 before the shift (42_load_alu.md R129). -/
def shiftRightOut (vx : Byte) : Bool := vx.getLsbD 0

/-- The bit a left shift moves out: bit 7 before the shift (42_load_alu.md R131). -/
def shiftLeftOut (vx : Byte) : Bool := vx.getLsbD 7

end Sys2Proof.Machine
end

