-- ==== Sys2Proof/Config.lean ====
section
/-! DEFINITION. What the implementation fixes (00_scope.md R5, R6) and the one free value (the random draw). -/

namespace Sys2Proof.Config

/-- The value of the `n`-th random draw (44_display_random.md R152, 60_exceptions.md R228, 92_eei_decisions.md
D27): a free value, about which nothing can be proved. -/
opaque randomDraw : Nat → Byte

/-- Glyphs 0 to 7 of the default font (70_reset_and_hazards.md R253; PRESUMED, log 3). -/
def fontLow : List Byte :=
  [0xF0, 0x90, 0x90, 0x90, 0xF0] ++ [0x20, 0x60, 0x20, 0x20, 0x70] ++
  [0xF0, 0x10, 0xF0, 0x80, 0xF0] ++ [0xF0, 0x10, 0xF0, 0x10, 0xF0] ++
  [0x90, 0x90, 0xF0, 0x10, 0x10] ++ [0xF0, 0x80, 0xF0, 0x10, 0xF0] ++
  [0xF0, 0x80, 0xF0, 0x90, 0xF0] ++ [0xF0, 0x10, 0x20, 0x40, 0x40]

/-- Glyphs 8 to F of the default font (70_reset_and_hazards.md R253; PRESUMED, log 3). -/
def fontHigh : List Byte :=
  [0xF0, 0x90, 0xF0, 0x90, 0xF0] ++ [0xF0, 0x90, 0xF0, 0x10, 0xF0] ++
  [0xF0, 0x90, 0xF0, 0x90, 0x90] ++ [0xE0, 0x90, 0xE0, 0x90, 0xE0] ++
  [0xF0, 0x80, 0x80, 0x80, 0xF0] ++ [0xE0, 0x90, 0x90, 0x90, 0xE0] ++
  [0xF0, 0x80, 0xF0, 0x80, 0xF0] ++ [0xF0, 0x80, 0xF0, 0x80, 0x80]

/-- The default of the strap FONT: 16 glyphs of 5 bytes (70_reset_and_hazards.md R253). -/
def font : List Byte := fontLow ++ fontHigh

/-- The default rate of CPU ticks, in Hz: timing, on which no rule depends (00_scope.md R6,
70_reset_and_hazards.md R262). -/
def cpuHzDefault : Nat := 500

/-- The rate of timer ticks, in Hz: timing, on which no rule depends (00_scope.md R5, 70_reset_and_hazards.md R262). -/
def timerHz : Nat := 60

end Sys2Proof.Config
end

