-- ==== Sys2Proof/Machine/State.lean ====
section
/-! DEFINITION. The state of the machine (10_state.md), the environment's events (60_exceptions.md R220), the reasons
a step of the model can stop, and the state after reset (10_state.md R29). -/

namespace Sys2Proof.Machine

/-- The run state (10_state.md R24). -/
inductive RunState where
  | running
  | waitingForKey
  | halted
  deriving DecidableEq, Repr

/-- The causes a fault report can name (60_exceptions.md R200); `none` is code 0. -/
inductive Cause where
  | none
  | pcOutOfRange
  | memoryOutOfRange
  | stackOverflow
  | stackUnderflow
  | keyIndexOutOfRange
  | fontIndexOutOfRange
  | illegalInstruction
  | stopped
  deriving DecidableEq, Repr

/-- The fault report FAULT (10_state.md R26). -/
structure FaultReport where
  cause : Cause
  pc : Word
  opcode : Word
  addr : Word
  deriving DecidableEq, Repr

/-- The 4096-byte RAM (20_memory.md R40) as the list of the bytes that differ from what an unlisted address reads as
(`Memory.unlisted`), addresses strictly rising (`Memory.wf`). -/
abbrev Memory := List Host.Cell

/-- The framebuffer: 32 rows of 64 one-bit cells (10_state.md R17); bit `c` of row `r` is the cell `FB[c + r*64]`. -/
abbrev Frame := Vector (BitVec 64) 32

/-- The external events, each one indivisible transition (60_exceptions.md R220, R236). -/
inductive Event where
  /-- R210. -/
  | cpuTick
  /-- R212. -/
  | timerTick
  /-- R222; the contract gives the indices 0 to 15. -/
  | keyDown (k : Nat)
  /-- R222; the contract gives the indices 0 to 15. -/
  | keyUp (k : Nat)
  /-- R225. -/
  | drawAck
  /-- R227. -/
  | stop
  /-- 70_reset_and_hazards.md R250: Reset(ROM) with the straps FONT and STRICT_DECODE. -/
  | reset (rom font : List Byte) (strict : Bool)
  deriving DecidableEq, Repr

/-- The state: the tuple of 10_state.md, the strap STRICT_DECODE, and three fields of the model's own that stand for
the environment (`events`, `draws`, `beeps`), which no program can see. -/
structure State where
  /-- V0 to VF (10_state.md R10); V[15] is the flag register VF (R11). -/
  v : Vector Byte 16
  /-- The index register I (R12). -/
  i : Word
  /-- The program counter (R13): during a meaning, the address of its instruction plus 2. -/
  pc : Word
  /-- The stack pointer (R14): the number of return addresses on the stack. -/
  sp : Word
  /-- The call-stack array (R15). -/
  stack : Vector Word 16
  /-- The RAM (R16). -/
  mem : Memory
  /-- The framebuffer (R17). -/
  fb : Frame
  /-- The delay timer (R18). -/
  dt : Byte
  /-- The sound timer (R19). -/
  st : Byte
  /-- The key-state snapshot (R20): true means held down. -/
  key : Vector Bool 16
  /-- The draw flag (R21). -/
  draw : Bool
  /-- The run state (R24). -/
  run : RunState
  /-- The register that waits for a key (R25). -/
  waitReg : Nibble
  /-- The fault report (R26). -/
  fault : FaultReport
  /-- The strap STRICT_DECODE as Reset sampled it (00_scope.md R6, 70_reset_and_hazards.md R250; log 6). -/
  strict : Bool
  /-- The model's own: the events still to come, oldest first (60_exceptions.md R236; log 4). -/
  events : List Event
  /-- The model's own: how many random draws have been taken (44_display_random.md R152; log 5). -/
  draws : Nat
  /-- The model's own: how many pulses the Beep output has carried (60_exceptions.md R226; log 8). -/
  beeps : Nat
  deriving DecidableEq, Repr

/-- The reasons a step of the MODEL stops as at a fault. The machine's own faults (60_exceptions.md R200) are no such
stop: they are next states in which RUN is Halted and FAULT is written (`enterFault`). -/
inductive Fault where
  /-- Raised by Return when SP is above 16: the entry below the top would lie outside the 16-entry STACK. SP is never
  above 15 in a state a run reaches (10_state.md R14), so no run raises it. Safe (log 7). -/
  | stackPointerOutOfRange
  deriving DecidableEq, Repr

/-- The reasons a step of the model refuses. -/
inductive Refusal where
  /-- Raised by exec for an instruction that has no meaning yet. Safe. -/
  | notModelled (mnemonic : String)
  /-- Raised by a Reset whose ROM is longer than 3584 bytes: "a model refuses it" (70_reset_and_hazards.md R252). Safe. -/
  | romTooLong (length : Nat)
  /-- Raised by a Reset whose FONT strap is not 80 bytes (70_reset_and_hazards.md R250; log 29). Safe. -/
  | fontNot80Bytes (length : Nat)
  /-- Raised by a KeyDown or KeyUp of an index above 15: "a model refuses such an event" (60_exceptions.md R222). Safe. -/
  | keyIndexNotSent (k : Nat)
  deriving DecidableEq, Repr

/-- The state right after Reset with the empty ROM, the default FONT and STRICT_DECODE false (10_state.md R29,
70_reset_and_hazards.md R250, R252). Memory lists nothing: it reads as the reset contents. -/
def State.reset : State where
  v := Vector.replicate 16 0
  i := 0
  pc := 0x200
  sp := 0
  stack := Vector.replicate 16 0
  mem := []
  fb := Vector.replicate 32 0
  dt := 0
  st := 0
  key := Vector.replicate 16 false
  draw := false
  run := .running
  waitReg := 0
  fault := ⟨.none, 0, 0, 0⟩
  strict := false
  events := []
  draws := 0
  beeps := 0

end Sys2Proof.Machine
end

