-- ==== Sys2Proof/Machine/Operands.lean ====
section
/-! DEFINITION. Every operand form of the spec: the register fields X and Y, the implicit V0 and VF, the immediates
NN and NNN, the addresses I + k, the digits of StoreBCD, the glyph address, the cells of a sprite. -/

namespace Sys2Proof.Machine

/-- `V[x]`: every index a field can form is in range (10_state.md R10). -/
def State.getV (s : State) (x : Nibble) : Byte := s.v[x.toNat]'(x.isLt)

/-- `V[x] <- b`. -/
def State.setV (s : State) (x : Nibble) (b : Byte) : State := { s with v := s.v.set x.toNat b x.isLt }

/-- VF, the flag register (10_state.md R11). -/
def regF : Nibble := 0xF

/-- The result to `V[x]`, then the flag to VF: the flag is written last and wins when `x` is F (42_load_alu.md R120). -/
def State.setVFlag (s : State) (x : Nibble) (result : Byte) (flag : Bool) : State :=
  (s.setV x result).setV regF (flagByte flag)

/-- `zext_16(NNN)`, an immediate address as PC or I takes it (30_encoding.md R63). -/
def zextAddr (nnn : Addr12) : Word := nnn.setWidth 16

/-- `zext_16` of a register's value (40_control_flow.md R105, 43_index_memory.md R141). -/
def zextByte (b : Byte) : Word := b.setWidth 16

/-- The address of the byte at `I + k`, a plain integer that never wraps (20_memory.md R46, 43_index_memory.md R146). -/
def State.effAddr (s : State) (k : Nat) : Nat := s.i.toNat + k

/-- The decimal digits of a byte, hundreds first (43_index_memory.md R143). -/
def bcdDigits (b : Byte) : List Byte :=
  [BitVec.ofNat 8 (b.toNat / 100), BitVec.ofNat 8 (b.toNat / 10 % 10), BitVec.ofNat 8 (b.toNat % 10)]

/-- The address of glyph `d` of the font: `0x050 + 5 * d` (43_index_memory.md R142). -/
def glyphAddr (d : Byte) : Word := BitVec.ofNat 16 (0x050 + 5 * d.toNat)

/-- The registers V0 to VX, as RegDump stores them (43_index_memory.md R144). -/
def State.regsUpTo (s : State) (x : Nibble) : List Byte := s.v.toList.take (x.toNat + 1)

/-- V0 to VX replaced by the first `X + 1` bytes of a list, the rest unchanged (43_index_memory.md R145). -/
def loadRegs (v : Vector Byte 16) (x : Nibble) (bytes : List Byte) : Vector Byte 16 :=
  Vector.ofFn fun j => if j.val ≤ x.toNat then bytes.getD j.val 0 else v[j]

/-! ### The framebuffer and the cells of a sprite (10_state.md R17, 44_display_random.md R151) -/

/-- Row `r` of the framebuffer (a row that does not exist reads as 0; every index the machine forms is below 32). -/
def Frame.row (fb : Frame) (r : Nat) : BitVec 64 := fb[r]?.getD 0

/-- `FB[k]`: column `k mod 64` of row `k div 64`. -/
def Frame.cell (fb : Frame) (k : Nat) : Bool := (Frame.row fb (k / 64)).getLsbD (k % 64)

/-- `FB[k] <- FB[k] xor 1`. -/
def Frame.flip (fb : Frame) (k : Nat) : Frame :=
  fb.setIfInBounds (k / 64) (Frame.row fb (k / 64) ^^^ BitVec.twoPow 64 (k % 64))

/-- All cells 0. -/
def Frame.blank : Frame := Vector.replicate 32 0

/-- `idx` of the pixel at column offset `col`, row offset `row` of a sprite drawn at (x, y): column and row are each
reduced, so the sprite wraps (44_display_random.md R151, decision D11). -/
def pixelIndex (x y col row : Nat) : Nat := (x + col) % 64 + (y + row) % 32 * 64

/-- The cells that one sprite byte flips: bit 7 is the leftmost pixel (44_display_random.md R151). -/
def rowCells (x y row : Nat) (b : Byte) : List Nat :=
  ((List.range 8).filter fun col => b.getLsbD (7 - col)).map fun col => pixelIndex x y col row

/-- The cells that a sprite flips, row by row from row `row` on. -/
def spriteCells (x y row : Nat) : List Byte → List Nat
  | [] => []
  | b :: bs => rowCells x y row b ++ spriteCells x y (row + 1) bs

/-- The pixel loop: every cell is flipped in turn, and a cell that was 1 when it was flipped makes a collision. -/
def drawCells (fb : Frame) (hit : Bool) : List Nat → Frame × Bool
  | [] => (fb, hit)
  | k :: ks => drawCells (Frame.flip fb k) (hit || Frame.cell fb k) ks

end Sys2Proof.Machine
end

