-- ==== Sys2Proof/Machine/Ops.lean ====
section
/-! DEFINITION. The shared operations: memory, fault entry (and Reset, the only way back from it), skips, the call
stack, block loads and stores. Every meaning is written over these. -/

namespace Sys2Proof.Machine

/-- What a meaning answers. -/
abbrev Result := Host.Outcome State Fault Refusal

/-! ### Memory (20_memory.md) -/

/-- What an address that no entry lists reads as: the reset contents with the default FONT and no ROM, the font at
0x050 to 0x09F and 0 elsewhere (20_memory.md R41, 10_state.md R29; log 28). -/
def Memory.unlisted (a : Nat) : Byte := if 0x050 ≤ a ∧ a < 0x0A0 then Config.font.getD (a - 0x050) 0 else 0

/-- `MEM[a]`, unchecked. -/
def Memory.get : Memory → Nat → Byte
  | [], a => Memory.unlisted a
  | (b, w) :: m, a => if b = a then w else Memory.get m a

/-- The memory without any entry for an address. -/
def Memory.erase (m : Memory) (a : Nat) : Memory := m.filter fun c => c.1 ≠ a

/-- An entry put before the first one with a higher address. -/
def Memory.insert : Memory → Nat → Byte → Memory
  | [], a, w => [(a, w)]
  | c :: m, a, w => if a < c.1 then (a, w) :: c :: m else c :: Memory.insert m a w

/-- `MEM[a] <- w`, unchecked; writing what an unlisted address reads as removes the entry. -/
def Memory.put (m : Memory) (a : Nat) (w : Byte) : Memory :=
  if w = Memory.unlisted a then Memory.erase m a else Memory.insert (Memory.erase m a) a w

/-- The canonical form: addresses strictly rising, all in 0 to 4095, no entry equal to what it would read as unlisted. -/
def Memory.wf : Memory → Bool
  | [] => true
  | (a, w) :: m => a < 4096 && w ≠ Memory.unlisted a && m.all (fun c => a < c.1) && Memory.wf m

/-- The `n` bytes from address `a` up. -/
def Memory.getBytes (m : Memory) (a n : Nat) : List Byte := (List.range n).map fun k => Memory.get m (a + k)

/-- Consecutive bytes written from address `a` up, in ascending order (20_memory.md R45). -/
def Memory.putBytes (m : Memory) (a : Nat) : List Byte → Memory
  | [] => m
  | w :: ws => Memory.putBytes (Memory.put m a w) (a + 1) ws

/-- The bounds check of an access to `n` bytes from `a` up: the lowest address above 4095 that it would touch, if
there is one (20_memory.md R42, R43, R46, 60_exceptions.md R200). -/
def outOfRange (a n : Nat) : Option Nat := if 0 < n ∧ 4095 < a + n - 1 then some (max a 4096) else none

/-! ### Fault entry (60_exceptions.md R203) -/

/-- Taking a fault: RUN becomes Halted, and FAULT is written if it holds no earlier report. `a` is the address of the
instruction, `op` its opcode (0 before the fetch has completed), `addr` the cause's value. -/
def enterFault (c : Cause) (a op addr : Word) (s : State) : State :=
  { s with
    run := .halted
    fault := if s.fault.cause = .none then ⟨c, a, op, addr⟩ else s.fault }

/-- `raise` in the handler of instruction `i`: PC already holds the instruction's address plus 2, so the address is
PC - 2 (10_state.md R13, 60_exceptions.md R203, R204). -/
def raise (i : Instr) (c : Cause) (addr : Word) (s : State) : Result :=
  .next (enterFault c (s.pc - 2) (encode i) addr s)

/-- The PC range test (60_exceptions.md R205). -/
def pcOutOfRange (pc : Word) : Bool := pc.toNat < 0x200 || 4095 < pc.toNat

/-- The Reset event on a ROM of at most 3584 bytes and a FONT of 80 bytes, the only way out of Halted
(70_reset_and_hazards.md R250, 60_exceptions.md R207). The environment's fields stay: the later events, the random
source (seeded once, R228) and the count of Beeps ("No Beep is emitted and no random draw is taken"). -/
def resetWith (rom font : List Byte) (strict : Bool) (s : State) : State :=
  { State.reset with
    mem := Memory.putBytes (Memory.putBytes [] 0x050 font) 0x200 rom
    strict := strict
    events := s.events
    draws := s.draws
    beeps := s.beeps }

/-! ### Control flow -/

/-- `PC <- target`. -/
def jumpTo (target : Word) (s : State) : Result := .next { s with pc := target }

/-- A conditional skip: an additional 2 when the condition holds (41_skips.md R116). -/
def skipIf (c : Bool) (s : State) : Result := .next (if c then { s with pc := s.pc + 2 } else s)

/-- Call's push: `STACK[SP] <- PC`, then SP one up (40_control_flow.md R104). -/
def pushPC (s : State) : State := { s with stack := s.stack.setIfInBounds s.sp.toNat s.pc, sp := s.sp + 1 }

/-- Return's pop: SP one down, then `PC <- STACK[SP]` (40_control_flow.md R102). -/
def popPC (s : State) : Result :=
  match s.stack[(s.sp - 1).toNat]? with
  | some ra => .next { s with sp := s.sp - 1, pc := ra }
  | none => .fault .stackPointerOutOfRange

/-! ### Key and glyph indices -/

/-- The index in `V[x]`, or the fault when it is above 15 (41_skips.md R114, R115, 43_index_memory.md R142). -/
def withIndex (i : Instr) (c : Cause) (x : Nibble) (s : State) (k : Byte → Result) : Result :=
  if 15 < (s.getV x).toNat then raise i c (zextByte (s.getV x)) s else k (s.getV x)

/-- `KEY[k]` (10_state.md R20). -/
def keyDown (s : State) (k : Byte) : Bool := s.key[k.toNat]?.getD false

/-! ### Block accesses: the whole range is checked before the first effect (20_memory.md R43, 43_index_memory.md R146) -/

/-- Instruction `i` stores bytes from I up. -/
def storeBlock (i : Instr) (bytes : List Byte) (s : State) : Result :=
  match outOfRange (s.effAddr 0) bytes.length with
  | some bad => raise i .memoryOutOfRange (BitVec.ofNat 16 bad) s
  | none => .next { s with mem := Memory.putBytes s.mem (s.effAddr 0) bytes }

/-- Instruction `i` reads `n` bytes from I up and goes on with them. -/
def loadBlock (i : Instr) (n : Nat) (s : State) (k : List Byte → Result) : Result :=
  match outOfRange (s.effAddr 0) n with
  | some bad => raise i .memoryOutOfRange (BitVec.ofNat 16 bad) s
  | none => k (Memory.getBytes s.mem (s.effAddr 0) n)

end Sys2Proof.Machine
end

