-- ==== Sys2Proof/Machine/ControlFlow.lean ====
section
/-! DEFINITION. Sys, Jump, Return, Call, JumpOffset, Nop (40_control_flow.md). -/

namespace Sys2Proof.Machine

/-- R100: nothing; PC stays after the instruction. -/
def execSys (_nnn : Addr12) (s : State) : Result := .next s

/-- R101. -/
def execJump (nnn : Addr12) (s : State) : Result := jumpTo (zextAddr nnn) s

/-- R102. -/
def execReturn (s : State) : Result := if s.sp = 0 then raise .ret .stackUnderflow 0 s else popPC s

/-- R104. -/
def execCall (nnn : Addr12) (s : State) : Result :=
  if 15 ≤ s.sp.toNat then raise (.call nnn) .stackOverflow 0 s else jumpTo (zextAddr nnn) (pushPC s)

/-- R105: the register is always V0, and the sum does not wrap. -/
def execJumpOffset (nnn : Addr12) (s : State) : Result := jumpTo (zextAddr nnn + zextByte (s.getV 0)) s

/-- R106: a no-op, or IllegalInstruction under STRICT_DECODE. -/
def execNop (op : Word) (s : State) : Result :=
  if s.strict then raise (.nop op) .illegalInstruction 0 s else .next s

end Sys2Proof.Machine
end

