-- ==== Sys2Proof/Machine/DisplayRandom.lean ====
section
/-! DEFINITION. Clear, DrawSprite, Random (44_display_random.md). -/

namespace Sys2Proof.Machine

/-- R150: every cell 0; DRAW keeps its value (decision D13). -/
def execClear (s : State) : Result := .next { s with fb := Frame.blank }

/-- R151: the coordinates are latched, VF is the collision flag, DRAW is set. -/
def execDrawSprite (x y n : Nibble) (s : State) : Result :=
  loadBlock (.drawSprite x y n) n.toNat s fun bytes =>
    let cells := spriteCells (s.getV x).toNat (s.getV y).toNat 0 bytes
    let drawn := drawCells s.fb false cells
    .next { s.setV regF (flagByte drawn.2) with fb := drawn.1, draw := true }

/-- R152: one draw from the random source, a free value (decision D27), masked with NN. -/
def execRandom (x : Nibble) (nn : Byte) (s : State) : Result :=
  .next { s.setV x (Config.randomDraw s.draws &&& nn) with draws := s.draws + 1 }

end Sys2Proof.Machine
end

