-- ==== Sys2Proof/Machine/IndexMemory.lean ====
section
/-! DEFINITION. The index register and the memory instructions (43_index_memory.md). -/

namespace Sys2Proof.Machine

/-- R140. -/
def execLoadIndex (nnn : Addr12) (s : State) : Result := .next { s with i := zextAddr nnn }

/-- R141: modulo 65536, no flag (decision D15). -/
def execAddIndex (x : Nibble) (s : State) : Result := .next { s with i := s.i + zextByte (s.getV x) }

/-- R142. -/
def execFontIndex (x : Nibble) (s : State) : Result :=
  withIndex (.fontIndex x) .fontIndexOutOfRange x s fun d => .next { s with i := glyphAddr d }

/-- R143. -/
def execStoreBCD (x : Nibble) (s : State) : Result := storeBlock (.storeBCD x) (bcdDigits (s.getV x)) s

/-- R144: V0 to VX inclusive, I unchanged. -/
def execRegDump (x : Nibble) (s : State) : Result := storeBlock (.regDump x) (s.regsUpTo x) s

/-- R145: V0 to VX inclusive, I unchanged. -/
def execRegLoad (x : Nibble) (s : State) : Result :=
  loadBlock (.regLoad x) (x.toNat + 1) s fun bytes => .next { s with v := loadRegs s.v x bytes }

end Sys2Proof.Machine
end

