-- ==== Sys2Proof/Machine/LoadAlu.lean ====
section
/-! DEFINITION. Register loads and the 8-bit ALU (42_load_alu.md): operands first, then the result, then the flag (R120). -/

namespace Sys2Proof.Machine

/-- R121. -/
def execLoadConst (x : Nibble) (nn : Byte) (s : State) : Result := .next (s.setV x nn)

/-- R122: modulo 256, no flag. -/
def execAddConst (x : Nibble) (nn : Byte) (s : State) : Result := .next (s.setV x (s.getV x + nn))

/-- R123. -/
def execLoadVal (x y : Nibble) (s : State) : Result := .next (s.setV x (s.getV y))

/-- R124: VF untouched (decision D10). -/
def execOrVal (x y : Nibble) (s : State) : Result := .next (s.setV x (s.getV x ||| s.getV y))

/-- R125: VF untouched (decision D10). -/
def execAndVal (x y : Nibble) (s : State) : Result := .next (s.setV x (s.getV x &&& s.getV y))

/-- R126: VF untouched (decision D10). -/
def execXorVal (x y : Nibble) (s : State) : Result := .next (s.setV x (s.getV x ^^^ s.getV y))

/-- R127: VF becomes 1 on carry and is not written otherwise (decision D7). -/
def execAddVal (x y : Nibble) (s : State) : Result :=
  let sum := s.getV x + s.getV y
  .next (if addCarry (s.getV x) (s.getV y) then s.setVFlag x sum true else s.setV x sum)

/-- R128. -/
def execSubVal (x y : Nibble) (s : State) : Result :=
  .next (s.setVFlag x (s.getV x - s.getV y) (noBorrow (s.getV x) (s.getV y)))

/-- R129: VX in place; VY is ignored (decision D8). -/
def execShiftRight (x _y : Nibble) (s : State) : Result :=
  .next (s.setVFlag x (s.getV x >>> 1) (shiftRightOut (s.getV x)))

/-- R130. -/
def execSubValInverse (x y : Nibble) (s : State) : Result :=
  .next (s.setVFlag x (s.getV y - s.getV x) (noBorrow (s.getV y) (s.getV x)))

/-- R131: VX in place; VY is ignored (decision D8). -/
def execShiftLeft (x _y : Nibble) (s : State) : Result :=
  .next (s.setVFlag x (s.getV x <<< 1) (shiftLeftOut (s.getV x)))

end Sys2Proof.Machine
end

