-- ==== Sys2Proof/Machine/Skips.lean ====
section
/-! DEFINITION. The six conditional skips (41_skips.md). -/

namespace Sys2Proof.Machine

/-- R110. -/
def execSkipEqConst (x : Nibble) (nn : Byte) (s : State) : Result := skipIf (s.getV x = nn) s

/-- R111. -/
def execSkipNeConst (x : Nibble) (nn : Byte) (s : State) : Result := skipIf (s.getV x ≠ nn) s

/-- R112: the low nibble is ignored. -/
def execSkipEqVal (x y _low : Nibble) (s : State) : Result := skipIf (s.getV x = s.getV y) s

/-- R113: the low nibble is ignored. -/
def execSkipNeVal (x y _low : Nibble) (s : State) : Result := skipIf (s.getV x ≠ s.getV y) s

/-- R114. -/
def execSkipKeyDown (x : Nibble) (s : State) : Result :=
  withIndex (.skipKeyDown x) .keyIndexOutOfRange x s fun k => skipIf (keyDown s k) s

/-- R115. -/
def execSkipKeyUp (x : Nibble) (s : State) : Result :=
  withIndex (.skipKeyUp x) .keyIndexOutOfRange x s fun k => skipIf (!keyDown s k) s

end Sys2Proof.Machine
end

