-- ==== Sys2Proof/Machine/TimersKeys.lean ====
section
/-! DEFINITION. The timers' instructions and the key wait (45_timers_keys.md). -/

namespace Sys2Proof.Machine

/-- R160. -/
def execGetDelay (x : Nibble) (s : State) : Result := .next (s.setV x s.dt)

/-- R161, at execution; the KeyDown event that ends the wait is `keyDownEvent`. -/
def execWaitForNextKeyPress (x : Nibble) (s : State) : Result :=
  .next { s with waitReg := x, run := .waitingForKey }

/-- R162. -/
def execSetDelay (x : Nibble) (s : State) : Result := .next { s with dt := s.getV x }

/-- R163: no Beep. -/
def execSetSound (x : Nibble) (s : State) : Result := .next { s with st := s.getV x }

end Sys2Proof.Machine
end

