-- ==== Sys2Proof/Machine/Dispatch.lean ====
section
/-! DEFINITION. The dispatch of an instruction to its meaning. -/

namespace Sys2Proof.Machine

/-- The handler of an instruction, run with PC already past it (10_state.md R13, 60_exceptions.md R210). -/
def exec (i : Instr) (s : State) : Host.Outcome State Fault Refusal :=
  match i with
  | .clear => Sys2Proof.Machine.execClear s
  | .ret => Sys2Proof.Machine.execReturn s
  | .sys nnn => Sys2Proof.Machine.execSys nnn s
  | .jump nnn => Sys2Proof.Machine.execJump nnn s
  | .call nnn => Sys2Proof.Machine.execCall nnn s
  | .skipEqConst x nn => Sys2Proof.Machine.execSkipEqConst x nn s
  | .skipNeConst x nn => Sys2Proof.Machine.execSkipNeConst x nn s
  | .skipEqVal x y low => Sys2Proof.Machine.execSkipEqVal x y low s
  | .loadConst x nn => Sys2Proof.Machine.execLoadConst x nn s
  | .addConst x nn => Sys2Proof.Machine.execAddConst x nn s
  | .loadVal x y => Sys2Proof.Machine.execLoadVal x y s
  | .orVal x y => Sys2Proof.Machine.execOrVal x y s
  | .andVal x y => Sys2Proof.Machine.execAndVal x y s
  | .xorVal x y => Sys2Proof.Machine.execXorVal x y s
  | .addVal x y => Sys2Proof.Machine.execAddVal x y s
  | .subVal x y => Sys2Proof.Machine.execSubVal x y s
  | .shiftRight x y => Sys2Proof.Machine.execShiftRight x y s
  | .subValInverse x y => Sys2Proof.Machine.execSubValInverse x y s
  | .shiftLeft x y => Sys2Proof.Machine.execShiftLeft x y s
  | .skipNeVal x y low => Sys2Proof.Machine.execSkipNeVal x y low s
  | .loadIndex nnn => Sys2Proof.Machine.execLoadIndex nnn s
  | .jumpOffset nnn => Sys2Proof.Machine.execJumpOffset nnn s
  | .random x nn => Sys2Proof.Machine.execRandom x nn s
  | .drawSprite x y n => Sys2Proof.Machine.execDrawSprite x y n s
  | .skipKeyDown x => Sys2Proof.Machine.execSkipKeyDown x s
  | .skipKeyUp x => Sys2Proof.Machine.execSkipKeyUp x s
  | .getDelay x => Sys2Proof.Machine.execGetDelay x s
  | .waitForNextKeyPress x => Sys2Proof.Machine.execWaitForNextKeyPress x s
  | .setDelay x => Sys2Proof.Machine.execSetDelay x s
  | .setSound x => Sys2Proof.Machine.execSetSound x s
  | .addIndex x => Sys2Proof.Machine.execAddIndex x s
  | .fontIndex x => Sys2Proof.Machine.execFontIndex x s
  | .storeBCD x => Sys2Proof.Machine.execStoreBCD x s
  | .regDump x => Sys2Proof.Machine.execRegDump x s
  | .regLoad x => Sys2Proof.Machine.execRegLoad x s
  | .nop op => Sys2Proof.Machine.execNop op s

end Sys2Proof.Machine
end

