-- ==== Sys2Proof/Machine/Events.lean ====
section
/-! DEFINITION. The seven events (60_exceptions.md R210 to R227, 70_reset_and_hazards.md R250) and the outputs. -/

namespace Sys2Proof.Machine

/-! ### The CPU tick (60_exceptions.md R210) -/

/-- The opcode at an address: the byte at the lower address is the high byte (20_memory.md R44). -/
def fetchWord (m : Memory) (a : Nat) : Word := joinBytes (Memory.get m a) (Memory.get m (a + 1))

/-- The check after a handler that raised nothing (60_exceptions.md R205): `a` and `op` are the address and the opcode
of the instruction. A handler that raised has left RUN Halted, and its report stands (R206). -/
def afterHandler (a op : Word) : Result → Result
  | .next t =>
    if t.run = .halted then .next t
    else if pcOutOfRange t.pc then .next (enterFault .pcOutOfRange a op t.pc t)
    else .next t
  | .fault f => .fault f
  | .refused r => .refused r

/-- One CPU tick: fetch, advance PC by 2, run the handler, check PC. -/
def cpuTick (s : State) : Result :=
  if s.run ≠ .running then .next s
  else if pcOutOfRange s.pc then .next (enterFault .pcOutOfRange s.pc 0 s.pc s)
  else
    match outOfRange s.pc.toNat 2 with
    | some bad => .next (enterFault .memoryOutOfRange s.pc 0 (BitVec.ofNat 16 bad) s)
    | none =>
      let op := fetchWord s.mem s.pc.toNat
      afterHandler s.pc op (exec (decodeWord op) { s with pc := s.pc + 2 })

/-! ### The other events -/

/-- A timer's count towards 0. -/
def countDown (t : Byte) : Byte := if t = 0 then 0 else t - 1

/-- The timer tick: no effect unless Running; a Beep when the decrement takes ST to 0 (60_exceptions.md R212). -/
def timerTick (s : State) : State :=
  if s.run ≠ .running then s
  else
    { s with
      dt := countDown s.dt
      st := countDown s.st
      beeps := if s.st = 1 then s.beeps + 1 else s.beeps }

/-- KeyDown: the snapshot, and the end of a key wait (60_exceptions.md R222, 45_timers_keys.md R161). -/
def keyDownEvent (k : Nat) (s : State) : State :=
  let t := { s with key := s.key.setIfInBounds k true }
  if s.run = .waitingForKey then { t.setV s.waitReg (BitVec.ofNat 8 k) with run := .running } else t

/-- KeyUp (60_exceptions.md R222). -/
def keyUpEvent (k : Nat) (s : State) : State := { s with key := s.key.setIfInBounds k false }

/-- DrawAck (60_exceptions.md R225). -/
def drawAckEvent (s : State) : State := { s with draw := false }

/-- Stop (60_exceptions.md R227). -/
def stopEvent (s : State) : State := if s.run = .halted then s else enterFault .stopped s.pc 0 0 s

/-- Reset(ROM), refused outside the contract (70_reset_and_hazards.md R250, R252). -/
def resetEvent (rom font : List Byte) (strict : Bool) (s : State) : Result :=
  if 3584 < rom.length then .refused (.romTooLong rom.length)
  else if font.length ≠ 80 then .refused (.fontNot80Bytes font.length)
  else .next (resetWith rom font strict s)

/-- A key event, refused for an index the contract does not have (60_exceptions.md R222). -/
def keyEvent (k : Nat) (t : State) : Result := if 15 < k then .refused (.keyIndexNotSent k) else .next t

/-- The transition of one event (60_exceptions.md R215, R236). -/
def handleEvent (e : Event) (s : State) : Result :=
  match e with
  | .cpuTick => cpuTick s
  | .timerTick => .next (timerTick s)
  | .keyDown k => keyEvent k (keyDownEvent k s)
  | .keyUp k => keyEvent k (keyUpEvent k s)
  | .drawAck => .next (drawAckEvent s)
  | .stop => .next (stopEvent s)
  | .reset rom font strict => resetEvent rom font strict s

/-- The event that comes next: the oldest one held, or a CPU tick when none is held (log 4). -/
def nextEvent (s : State) : Event := s.events.headD .cpuTick

/-- The state with its next event taken from the queue. -/
def dropEvent (s : State) : State := { s with events := s.events.tail }

/-- One step: the next event is taken and handled. -/
def stepEvent (s : State) : Result := handleEvent (nextEvent s) (dropEvent s)

/-! ### What is encoded and what is seen outside -/

/-- The code of a cause (60_exceptions.md R200, 10_state.md R26). -/
def Cause.code : Cause → Nibble
  | .none => 0
  | .pcOutOfRange => 1
  | .memoryOutOfRange => 2
  | .stackOverflow => 3
  | .stackUnderflow => 4
  | .keyIndexOutOfRange => 5
  | .fontIndexOutOfRange => 6
  | .illegalInstruction => 7
  | .stopped => 8

/-- The suggested encoding of RUN (10_state.md R24, decision D24). -/
def RunState.code : RunState → BitVec 2
  | .running => 0
  | .waitingForKey => 1
  | .halted => 2

/-- What the environment reads between events (60_exceptions.md R220, R224, R225, R226, R229). -/
structure Outputs where
  fb : Frame
  draw : Bool
  beeps : Nat
  run : BitVec 2
  cause : Nibble
  faultPc : Word
  faultOpcode : Word
  faultAddr : Word
  deriving DecidableEq, Repr

/-- The output ports. -/
def outputs (s : State) : Outputs :=
  ⟨s.fb, s.draw, s.beeps, s.run.code, s.fault.cause.code, s.fault.pc, s.fault.opcode, s.fault.addr⟩

/-- The pixel the Display Sink sees at column `c`, row `r` (44_display_random.md R153). -/
def pixel (s : State) (c r : Nat) : Bool := Frame.cell s.fb (c + r * 64)

/-! ### Placing an instruction -/

/-- Where the next fetch happens: at PC, or at 0x200 when PC is no address a fetch succeeds at. -/
def fetchAddr (s : State) : Word := if 0x200 ≤ s.pc.toNat ∧ s.pc.toNat ≤ 4094 then s.pc else 0x200

/-- The state whose next event is a CPU tick that fetches these bytes (log 30). -/
def placeBytes (bytes : List Byte) (s : State) : State :=
  { s with
    mem := Memory.putBytes s.mem (fetchAddr s).toNat bytes
    pc := fetchAddr s
    run := .running
    events := if nextEvent s = .cpuTick then s.events else .cpuTick :: s.events }

end Sys2Proof.Machine
end

