-- ==== Sys2Proof/Machine/Step.lean ====
section
/-! DEFINITION. The step, and the placing of an instruction where the next step fetches it. -/

namespace Sys2Proof.Machine

/-- One step of the model: one external event (60_exceptions.md R236). -/
def step (s : State) : Host.Outcome State Fault Refusal := stepEvent s

/-- The state with a word, numbered as spec/opcode_table.json numbers it, placed where the next step fetches it. -/
def State.withFetchWord (s : State) (nbits w : Nat) : State := placeBytes (tableBytes nbits w) s

end Sys2Proof.Machine
end

