-- ==== Sys2Proof/Safety.lean ====
section
/-! DEFINITION. What a safe run is (70_reset_and_hazards.md R255), the machine's invariant (10_state.md R27) and the
states that events reach (60_exceptions.md R236). -/

namespace Sys2Proof.Machine

/-- A fault state: Halted with one of the causes 1 to 7; "never a successful end" (70_reset_and_hazards.md R255). -/
def State.isFaultState (s : State) : Bool :=
  s.run = .halted && s.fault.cause ≠ .none && s.fault.cause ≠ .stopped

/-- An orderly stop: Halted by Stop (70_reset_and_hazards.md R255). -/
def State.isOrderlyStop (s : State) : Bool := s.run = .halted && s.fault.cause = .stopped

/-- Every live return address is what a Call at an address a fetch succeeds at can push: 0x202 to 4096
(40_control_flow.md R102, R104). -/
def State.stackOk (s : State) : Prop :=
  ∀ k : Fin 16, k.val < s.sp.toNat → 0x202 ≤ s.stack[k].toNat ∧ s.stack[k].toNat ≤ 4096

/-- The invariant of 10_state.md R14, R15, R26, R27: memory is in its canonical form, SP is at most 15, the live
return addresses are in range, entry 15 was never written, PC is in 0x200 to 4095 unless Halted, and a fault is
reported exactly when Halted. -/
structure State.Inv (s : State) : Prop where
  mem : Memory.wf s.mem = true
  sp : s.sp.toNat ≤ 15
  stack : s.stackOk
  entry15 : s.stack[15] = 0
  pc : s.run ≠ .halted → 0x200 ≤ s.pc.toNat ∧ s.pc.toNat ≤ 4095
  fault : s.run = .halted ↔ s.fault.cause ≠ .none

/-- The states that some sequence of events reaches from reset (60_exceptions.md R236: "quantifies over every
sequence of events"). -/
inductive Reachable : State → Prop where
  | reset : Reachable State.reset
  | event {s t : State} (e : Event) (h : Reachable s) (next : handleEvent e s = .next t) : Reachable t

/-! ### The terms the statements use -/

/-- From `s` to `t` the register `x` takes the value `b`, and nothing else changes. -/
def WritesReg (s t : State) (x : Nibble) (b : Byte) : Prop :=
  t.getV x = b ∧ (∀ y, y ≠ x → t.getV y = s.getV y) ∧ t = { s with v := t.v }

/-- From `s` to `t` the register `x` takes the value `b` (unless it is VF), VF takes the flag, and nothing else changes. -/
def WritesRegAndFlag (s t : State) (x : Nibble) (b flag : Byte) : Prop :=
  (x ≠ regF → t.getV x = b) ∧ t.getV regF = flag ∧
  (∀ y, y ≠ x → y ≠ regF → t.getV y = s.getV y) ∧ t = { s with v := t.v }

/-- From `s` to `t` a fault is entered with the report `r`: RUN is Halted, the report is written unless an earlier one
stands, and nothing else changes (60_exceptions.md R203, R204). -/
def HaltsWith (s t : State) (r : FaultReport) : Prop :=
  t = { s with run := .halted, fault := t.fault } ∧
  (s.fault.cause = .none → t.fault = r) ∧ (s.fault.cause ≠ .none → t.fault = s.fault)

/-- `out` is what is left of a handler's answer after the PC check of 60_exceptions.md R205, for the instruction at
address `a` with opcode `op`. -/
def ChecksPC (a op : Word) (answer out : Result) : Prop :=
  (∀ t, answer = .next t →
    (t.run = .halted → out = .next t) ∧
    (t.run ≠ .halted → 0x200 ≤ t.pc.toNat → t.pc.toNat ≤ 4095 → out = .next t) ∧
    (t.run ≠ .halted → t.pc.toNat < 0x200 ∨ 4095 < t.pc.toNat →
      ∃ u, out = .next u ∧ HaltsWith t u ⟨.pcOutOfRange, a, op, t.pc⟩)) ∧
  (∀ f, answer = .fault f → out = .fault f) ∧ (∀ q, answer = .refused q → out = .refused q)

/-- The condition of the six skips (41_skips.md R110 to R115); `none` for any other instruction, and for a key skip
whose index is above 15. -/
def skipCondition (s : State) : Instr → Option Bool
  | .skipEqConst x nn => some (s.getV x = nn)
  | .skipNeConst x nn => some (s.getV x ≠ nn)
  | .skipEqVal x y _ => some (s.getV x = s.getV y)
  | .skipNeVal x y _ => some (s.getV x ≠ s.getV y)
  | .skipKeyDown x => s.key[(s.getV x).toNat]?
  | .skipKeyUp x => s.key[(s.getV x).toNat]?.map (!·)
  | _ => none

/-- The registers an instruction may write (10_state.md R11, R30). -/
def destinations : Instr → List Nibble
  | .loadConst x _ | .addConst x _ | .loadVal x _ | .orVal x _ | .andVal x _ | .xorVal x _ | .random x _
  | .getDelay x => [x]
  | .addVal x _ | .subVal x _ | .shiftRight x _ | .subValInverse x _ | .shiftLeft x _ => [x, regF]
  | .drawSprite _ _ _ => [regF]
  | .regLoad x => (List.range (x.toNat + 1)).map (BitVec.ofNat 4)
  | _ => []

/-- The pixel at column `c`, row `r` is hit by the sprite that DrawSprite X, Y, N draws in `s`
(44_display_random.md R151). -/
def SpriteHits (s : State) (x y n : Nibble) (c r : Nat) : Prop :=
  ∃ row < n.toNat, ∃ col < 8, (Memory.get s.mem (s.effAddr row)).getLsbD (7 - col) = true ∧
    c = ((s.getV x).toNat + col) % 64 ∧ r = ((s.getV y).toNat + row) % 32

end Sys2Proof.Machine
end

