-- ==== Sys2Proof/Certificates/Slice0/Obligations.lean ====
section
/-! DEFINITION. The statements for the provers. -/

open Sys2Proof Sys2Proof.Machine

/-! ### Encoding (30_encoding.md) -/

/-- 30_encoding.md R64, R65: no bit of an encoding is dropped. -/
def Obligations.DecodeOfEncodeIsTheInstruction : Prop :=
  ∀ (i : Instr), i.wf = true →
    decodeWord (encode i) = i ∧ ∀ rest : List Byte, decode (encodeBytes i ++ rest) = .ok (i, rest)

/-- 30_encoding.md R61, R64: every word is the encoding of the well-formed instruction it decodes to. -/
def Obligations.EveryWordDecodesToWhatEncodesIt : Prop :=
  ∀ op : Word, encode (decodeWord op) = op ∧ (decodeWord op).wf = true

/-- 30_encoding.md R64: "when several rows match, the row with the most 1 bits in its mask wins". -/
def Obligations.DecoderSelectsTheRowWithMostMaskBits : Prop :=
  ∀ op : Word, ∃ r ∈ table, r.covers op = true ∧ r.mnemonic = (decodeWord op).mnemonic ∧
    ∀ q ∈ table, q.covers op = true → q ≠ r → q.maskBits < r.maskBits

/-- 30_encoding.md R67: Nop is selected by exactly the opcodes listed there. -/
def Obligations.NopIsExactlyTheUnrecognisedOpcodes : Prop :=
  ∀ op : Word, (decodeWord op = .nop op ↔
    (family op = 0x8 ∧ (fieldN op = 0x8 ∨ fieldN op = 0x9 ∨ fieldN op = 0xA ∨ fieldN op = 0xB ∨ fieldN op = 0xC ∨
      fieldN op = 0xD ∨ fieldN op = 0xF)) ∨
    (family op = 0xE ∧ fieldNN op ≠ 0x9E ∧ fieldNN op ≠ 0xA1) ∨
    (family op = 0xF ∧ fieldNN op ∉ ([0x07, 0x0A, 0x15, 0x18, 0x1E, 0x29, 0x33, 0x55, 0x65] : List Byte)))

/-- 30_encoding.md R65, 95_test_vectors.md (spot checks, T1, T9): words written out from the spec. -/
def Obligations.SampleWordsDecodeAsTheSpecSays : Prop :=
  decodeWord 0x6005 = .loadConst 0 0x05 ∧ decodeWord 0x7003 = .addConst 0 0x03 ∧ decodeWord 0x0000 = .sys 0 ∧
  decodeWord 0x00E0 = .clear ∧ decodeWord 0x00EE = .ret ∧ decodeWord 0x00E1 = .sys 0x0E1 ∧
  decodeWord 0xD125 = .drawSprite 1 2 5 ∧ decodeWord 0x8ABE = .shiftLeft 0xA 0xB ∧
  decodeWord 0x8ABF = .nop 0x8ABF ∧ decodeWord 0xE1A1 = .skipKeyUp 1 ∧ decodeWord 0xF355 = .regDump 3

/-! ### The step and the CPU tick (60_exceptions.md R204 to R206, R210) -/

/-- 60_exceptions.md R210: where the next event is a CPU tick and the bytes at PC decode to `i`, a step takes the event,
moves PC past the instruction, runs exec of `i`, and checks PC. -/
def Obligations.StepRunsTheDecodedInstruction : Prop :=
  ∀ (s : State) (i : Instr), nextEvent s = .cpuTick → s.run = .running → 0x200 ≤ s.pc.toNat → s.pc.toNat ≤ 4094 →
    decode [Memory.get s.mem s.pc.toNat, Memory.get s.mem (s.pc.toNat + 1)] = .ok (i, []) →
    ChecksPC s.pc (encode i) (exec i { s with pc := s.pc + 2, events := s.events.tail }) (step s)

/-- 60_exceptions.md R210 (lower bound of PC: decision D2; report: D16; fetch at 4095: D17). -/
def Obligations.CpuTickFollowsTheExecutionLoop : Prop :=
  ∀ s : State,
    (s.run ≠ .running → handleEvent .cpuTick s = .next s) ∧
    (s.run = .running → s.pc.toNat < 0x200 ∨ 4095 < s.pc.toNat →
      ∃ t, handleEvent .cpuTick s = .next t ∧ HaltsWith s t ⟨.pcOutOfRange, s.pc, 0, s.pc⟩) ∧
    (s.run = .running → s.pc.toNat = 4095 →
      ∃ t, handleEvent .cpuTick s = .next t ∧ HaltsWith s t ⟨.memoryOutOfRange, s.pc, 0, 4096⟩) ∧
    (s.run = .running → 0x200 ≤ s.pc.toNat → s.pc.toNat ≤ 4094 →
      ∀ op, op = joinBytes (Memory.get s.mem s.pc.toNat) (Memory.get s.mem (s.pc.toNat + 1)) →
        ChecksPC s.pc op (exec (decodeWord op) { s with pc := s.pc + 2 }) (handleEvent .cpuTick s))

/-- Log 30, the model's own convention: `withFetchWord` places a word so that the very next step fetches and runs it. -/
def Obligations.WithFetchWordRunsThePlacedWord : Prop :=
  ∀ (s t : State) (w : Nat), t = s.withFetchWord 16 w →
    ChecksPC t.pc (BitVec.ofNat 16 w)
      (exec (decodeWord (BitVec.ofNat 16 w)) { t with pc := t.pc + 2, events := t.events.tail }) (step t) ∧
    t = { s with mem := t.mem, pc := t.pc, run := .running, events := t.events } ∧
    (0x200 ≤ s.pc.toNat → s.pc.toNat ≤ 4094 → t.pc = s.pc) ∧ (nextEvent s = .cpuTick → t.events = s.events) ∧
    ∀ a : Nat, a < t.pc.toNat ∨ t.pc.toNat + 1 < a → Memory.get t.mem a = Memory.get s.mem a

/-- 60_exceptions.md R204 (b), decision D16: a handler that reports a fault has written nothing else, and the report
names the instruction (address PC - 2, its opcode). -/
def Obligations.FaultingHandlerWritesNothing : Prop :=
  ∀ (i : Instr) (s t : State), exec i s = .next t → t.fault ≠ s.fault →
    t = { s with run := .halted, fault := t.fault } ∧ t.fault.pc = s.pc - 2 ∧ t.fault.opcode = encode i ∧
    t.fault.cause ≠ .none ∧ t.fault.cause ≠ .pcOutOfRange ∧ t.fault.cause ≠ .stopped

/-- 10_state.md R26, 60_exceptions.md R203: the first report is kept until Reset. -/
def Obligations.FirstFaultReportIsKept : Prop :=
  ∀ s t : State, step s = .next t → s.fault.cause ≠ .none → (∀ rom font b, nextEvent s ≠ .reset rom font b) →
    t.fault = s.fault

/-! ### Control flow (40_control_flow.md) -/

/-- 40_control_flow.md R100, R106 (decisions D4, D5): Sys, and Nop without STRICT_DECODE, do nothing; with it, Nop
raises IllegalInstruction. -/
def Obligations.SysAndNopDoNothing : Prop :=
  (∀ (op : Word) (s : State), family op = 0x0 → op ≠ 0x00E0 → op ≠ 0x00EE →
    decodeWord op = .sys (fieldNNN op) ∧ exec (.sys (fieldNNN op)) s = .next s) ∧
  (∀ (op : Word) (s : State), s.strict = false → exec (.nop op) s = .next s) ∧
  (∀ (op : Word) (s : State), s.strict = true →
    ∃ t, exec (.nop op) s = .next t ∧ HaltsWith s t ⟨.illegalInstruction, s.pc - 2, op, 0⟩)

/-- 40_control_flow.md R101, R105: the target goes to PC unchecked and unwrapped, and nothing else changes. -/
def Obligations.JumpsSetPcToTheirTarget : Prop :=
  ∀ (nnn : Addr12) (s : State),
    (∃ t, exec (.jump nnn) s = .next t ∧ t.pc.toNat = nnn.toNat ∧ t = { s with pc := t.pc }) ∧
    (∃ t, exec (.jumpOffset nnn) s = .next t ∧ t.pc.toNat = nnn.toNat + (s.getV 0).toNat ∧ t = { s with pc := t.pc })

/-- 40_control_flow.md R104 (depth: decision D3). -/
def Obligations.CallPushesPcAndJumps : Prop :=
  ∀ (nnn : Addr12) (s : State), s.sp.toNat < 15 →
    ∃ t, exec (.call nnn) s = .next t ∧ t.pc.toNat = nnn.toNat ∧ t.sp.toNat = s.sp.toNat + 1 ∧
      (∀ k : Fin 16, t.stack[k] = if k.val = s.sp.toNat then s.pc else s.stack[k]) ∧
      t = { s with pc := t.pc, sp := t.sp, stack := t.stack }

/-- 40_control_flow.md R102; SP above 16 is in no run, and the model stops there by name (log 7). -/
def Obligations.ReturnPopsIntoPc : Prop :=
  ∀ s : State,
    (∀ k : Fin 16, s.sp.toNat = k.val + 1 →
      ∃ t, exec .ret s = .next t ∧ t.pc = s.stack[k] ∧ t.sp.toNat = k.val ∧ t = { s with pc := t.pc, sp := t.sp }) ∧
    (16 < s.sp.toNat → exec .ret s = .fault .stackPointerOutOfRange)

/-- 40_control_flow.md R102, R104, 60_exceptions.md R200 (causes 3 and 4; decisions D3, D16). -/
def Obligations.FullAndEmptyStackAreFaults : Prop :=
  ∀ s : State,
    (∀ nnn : Addr12, 15 ≤ s.sp.toNat →
      ∃ t, exec (.call nnn) s = .next t ∧ HaltsWith s t ⟨.stackOverflow, s.pc - 2, wordADDR 0x2 nnn, 0⟩) ∧
    (s.sp = 0 → ∃ t, exec .ret s = .next t ∧ HaltsWith s t ⟨.stackUnderflow, s.pc - 2, 0x00EE, 0⟩)

/-- 40_control_flow.md R102, 95_test_vectors.md T6: a Return from a callee that leaves SP and STACK as Call left them
restores PC to the address of the Call plus 2, and SP. -/
def Obligations.CallThenReturnRestoresPc : Prop :=
  ∀ (nnn : Addr12) (s : State), s.sp.toNat < 15 →
    ∃ t, exec (.call nnn) s = .next t ∧
      ∀ c : State, c.sp = t.sp → c.stack = t.stack →
        ∃ u, exec .ret c = .next u ∧ u.pc = s.pc ∧ u.sp = s.sp ∧ u = { c with pc := u.pc, sp := u.sp }

/-! ### Skips (41_skips.md) -/

/-- 41_skips.md R110 to R115: the skips of registers always complete, those of keys where the index is 0 to 15. -/
def Obligations.SkipsAddTwoToPcOnTheirCondition : Prop :=
  ∀ (x y low : Nibble) (nn : Byte) (s : State),
    (∃ t, exec (.skipEqConst x nn) s = .next t ∧ t = { s with pc := if s.getV x = nn then s.pc + 2 else s.pc }) ∧
    (∃ t, exec (.skipNeConst x nn) s = .next t ∧ t = { s with pc := if s.getV x = nn then s.pc else s.pc + 2 }) ∧
    (∃ t, exec (.skipEqVal x y low) s = .next t ∧ t = { s with pc := if s.getV x = s.getV y then s.pc + 2 else s.pc }) ∧
    (∃ t, exec (.skipNeVal x y low) s = .next t ∧ t = { s with pc := if s.getV x = s.getV y then s.pc else s.pc + 2 }) ∧
    (∀ k : Fin 16, (s.getV x).toNat = k.val →
      (∃ t, exec (.skipKeyDown x) s = .next t ∧ t = { s with pc := if s.key[k] = true then s.pc + 2 else s.pc }) ∧
      (∃ t, exec (.skipKeyUp x) s = .next t ∧ t = { s with pc := if s.key[k] = true then s.pc else s.pc + 2 }))

/-- 41_skips.md R116, 10_state.md R13: the step of a skip at address `a`, and that nothing but a skip, a jump,
Call and Return moves PC from where the fetch left it. -/
def Obligations.SkipStepReachesPlusFourOrPlusTwo : Prop :=
  (∀ (s : State) (c : Bool), nextEvent s = .cpuTick → s.run = .running → 0x200 ≤ s.pc.toNat → s.pc.toNat ≤ 4094 →
    skipCondition s (decodeWord (fetchWord s.mem s.pc.toNat)) = some c →
    ∃ t, step s = .next t ∧ t.pc.toNat = (if c = true then s.pc.toNat + 4 else s.pc.toNat + 2) ∧
      t = { s with pc := t.pc, events := s.events.tail, run := t.run, fault := t.fault } ∧
      (t.pc.toNat ≤ 4095 → t.run = .running ∧ t.fault = s.fault) ∧
      (4095 < t.pc.toNat → t.run = .halted ∧
        (s.fault.cause = .none → t.fault = ⟨.pcOutOfRange, s.pc, fetchWord s.mem s.pc.toNat, t.pc⟩))) ∧
  ∀ (i : Instr) (s t : State), exec i s = .next t → t.pc ≠ s.pc →
    (skipCondition s i = some true ∧ t = { s with pc := s.pc + 2 }) ∨
    i = .ret ∨ ∃ nnn, i = .jump nnn ∨ i = .call nnn ∨ i = .jumpOffset nnn

/-- 41_skips.md R114, R115, 43_index_memory.md R142 (decision D14): an index above 15 is a fault. -/
def Obligations.IndicesAboveFifteenAreFaults : Prop :=
  ∀ (x : Nibble) (s : State), 15 < (s.getV x).toNat → ∀ a : Word, a.toNat = (s.getV x).toNat →
    (∃ t, exec (.skipKeyDown x) s = .next t ∧ HaltsWith s t ⟨.keyIndexOutOfRange, s.pc - 2, wordXNN 0xE x 0x9E, a⟩) ∧
    (∃ t, exec (.skipKeyUp x) s = .next t ∧ HaltsWith s t ⟨.keyIndexOutOfRange, s.pc - 2, wordXNN 0xE x 0xA1, a⟩) ∧
    (∃ t, exec (.fontIndex x) s = .next t ∧ HaltsWith s t ⟨.fontIndexOutOfRange, s.pc - 2, wordXNN 0xF x 0x29, a⟩)

/-! ### Loads and the ALU (42_load_alu.md) -/

/-- 42_load_alu.md R121, whole. -/
def Obligations.LoadConstSetsVx : Prop :=
  ∀ (x : Nibble) (nn : Byte), decodeWord (wordXNN 0x6 x nn) = .loadConst x nn ∧
    ∀ s : State, ∃ t, exec (.loadConst x nn) s = .next t ∧ WritesReg s t x nn

/-- 42_load_alu.md R122, whole. -/
def Obligations.AddConstAddsModulo256WithoutFlag : Prop :=
  ∀ (x : Nibble) (nn : Byte), decodeWord (wordXNN 0x7 x nn) = .addConst x nn ∧
    ∀ (s : State) (b : Byte), b.toNat = ((s.getV x).toNat + nn.toNat) % 256 →
      ∃ t, exec (.addConst x nn) s = .next t ∧ WritesReg s t x b

/-- 42_load_alu.md R123 to R126 (no flag: decision D10). -/
def Obligations.CopyAndLogicWriteOnlyVx : Prop :=
  ∀ (x y : Nibble) (s : State),
    (∃ t, exec (.loadVal x y) s = .next t ∧ WritesReg s t x (s.getV y)) ∧
    (∃ t b, exec (.orVal x y) s = .next t ∧ WritesReg s t x b ∧
      ∀ k, b.getLsbD k = ((s.getV x).getLsbD k || (s.getV y).getLsbD k)) ∧
    (∃ t b, exec (.andVal x y) s = .next t ∧ WritesReg s t x b ∧
      ∀ k, b.getLsbD k = ((s.getV x).getLsbD k && (s.getV y).getLsbD k)) ∧
    (∃ t b, exec (.xorVal x y) s = .next t ∧ WritesReg s t x b ∧
      ∀ k, b.getLsbD k = ((s.getV x).getLsbD k ^^ (s.getV y).getLsbD k))

/-- 42_load_alu.md R127 (decisions D7, D9): VF becomes 1 on carry and is left alone otherwise. -/
def Obligations.AddValSetsCarryAndNeverClearsIt : Prop :=
  ∀ (x y : Nibble) (s : State) (b : Byte), b.toNat = ((s.getV x).toNat + (s.getV y).toNat) % 256 →
    ∃ t, exec (.addVal x y) s = .next t ∧
      (255 < (s.getV x).toNat + (s.getV y).toNat → WritesRegAndFlag s t x b 1) ∧
      ((s.getV x).toNat + (s.getV y).toNat ≤ 255 → WritesReg s t x b)

/-- 42_load_alu.md R128, R130 (X = F: decision D9): VF is 1 exactly when there is no borrow. -/
def Obligations.SubtractionsSetNoBorrow : Prop :=
  ∀ (x y : Nibble) (s : State),
    (∀ b : Byte, b.toNat = (256 + (s.getV x).toNat - (s.getV y).toNat) % 256 →
      ∃ t, exec (.subVal x y) s = .next t ∧
        WritesRegAndFlag s t x b (if (s.getV y).toNat ≤ (s.getV x).toNat then 1 else 0)) ∧
    (∀ b : Byte, b.toNat = (256 + (s.getV y).toNat - (s.getV x).toNat) % 256 →
      ∃ t, exec (.subValInverse x y) s = .next t ∧
        WritesRegAndFlag s t x b (if (s.getV x).toNat ≤ (s.getV y).toNat then 1 else 0))

/-- 42_load_alu.md R129, R131 (VX in place: decision D8; X = F: decision D9). -/
def Obligations.ShiftsMoveOneBitAndReportIt : Prop :=
  ∀ (x y : Nibble) (s : State),
    (∀ b : Byte, b.toNat = (s.getV x).toNat / 2 →
      ∃ t, exec (.shiftRight x y) s = .next t ∧
        WritesRegAndFlag s t x b (if (s.getV x).toNat % 2 = 1 then 1 else 0)) ∧
    (∀ b : Byte, b.toNat = (s.getV x).toNat * 2 % 256 →
      ∃ t, exec (.shiftLeft x y) s = .next t ∧
        WritesRegAndFlag s t x b (if 128 ≤ (s.getV x).toNat then 1 else 0))

/-! ### Index register and memory (43_index_memory.md) -/

/-- 43_index_memory.md R140, R141, R142 (decision D15): only I changes. -/
def Obligations.IndexInstructionsWriteOnlyI : Prop :=
  ∀ (x : Nibble) (nnn : Addr12) (s : State),
    (∃ t, exec (.loadIndex nnn) s = .next t ∧ t.i.toNat = nnn.toNat ∧ t = { s with i := t.i }) ∧
    (∃ t, exec (.addIndex x) s = .next t ∧ t.i.toNat = (s.i.toNat + (s.getV x).toNat) % 65536 ∧ t = { s with i := t.i }) ∧
    ((s.getV x).toNat ≤ 15 →
      ∃ t, exec (.fontIndex x) s = .next t ∧ t.i.toNat = 0x050 + 5 * (s.getV x).toNat ∧ t = { s with i := t.i })

/-- 43_index_memory.md R143: the digits go to I, I + 1, I + 2, and every other byte of memory stays. -/
def Obligations.StoreBCDWritesThreeDigits : Prop :=
  ∀ (x : Nibble) (s : State), s.i.toNat ≤ 4093 →
    ∃ t, exec (.storeBCD x) s = .next t ∧ t = { s with mem := t.mem } ∧
      (Memory.get t.mem (s.effAddr 0)).toNat = (s.getV x).toNat / 100 ∧
      (Memory.get t.mem (s.effAddr 1)).toNat = (s.getV x).toNat / 10 % 10 ∧
      (Memory.get t.mem (s.effAddr 2)).toNat = (s.getV x).toNat % 10 ∧
      ∀ a : Nat, a < s.effAddr 0 ∨ s.effAddr 2 < a → Memory.get t.mem a = Memory.get s.mem a

/-- 43_index_memory.md R144: V0 to VX go to I to I + X, and every other byte of memory stays. -/
def Obligations.RegDumpStoresV0ToVx : Prop :=
  ∀ (x : Nibble) (s : State), s.i.toNat + x.toNat ≤ 4095 →
    ∃ t, exec (.regDump x) s = .next t ∧ t = { s with mem := t.mem } ∧
      (∀ y : Nibble, y.toNat ≤ x.toNat → Memory.get t.mem (s.effAddr y.toNat) = s.getV y) ∧
      ∀ a : Nat, a < s.effAddr 0 ∨ s.effAddr x.toNat < a → Memory.get t.mem a = Memory.get s.mem a

/-- 43_index_memory.md R145: inclusive, ascending, I unchanged; the bound is checked before the first write. -/
def Obligations.RegLoadLoadsV0ToVx : Prop :=
  ∀ (x : Nibble), decodeWord (wordXNN 0xF x 0x65) = .regLoad x ∧ ∀ s : State,
    (s.i.toNat + x.toNat ≤ 4095 →
      ∃ t, exec (.regLoad x) s = .next t ∧ t = { s with v := t.v } ∧
        (∀ y : Nibble, y.toNat ≤ x.toNat → t.getV y = Memory.get s.mem (s.effAddr y.toNat)) ∧
        ∀ y : Nibble, x.toNat < y.toNat → t.getV y = s.getV y) ∧
    (4095 < s.i.toNat + x.toNat → ∀ a : Word, a.toNat = max s.i.toNat 4096 →
      ∃ t, exec (.regLoad x) s = .next t ∧ t.v = s.v ∧ t.i = s.i ∧ t.run = .halted ∧
        (s.fault.cause = .none → t.fault.cause = .memoryOutOfRange ∧ t.fault.addr = a))

/-- 20_memory.md R42, R43, R46, 43_index_memory.md R143 to R145, 44_display_random.md R151 (decision D16): an access above
4095 is a fault with nothing written, and the report holds the lowest such address. -/
def Obligations.BlockAccessAbove4095IsAFault : Prop :=
  ∀ (x y n : Nibble) (s : State) (a : Word), a.toNat = max s.i.toNat 4096 →
    (4093 < s.i.toNat →
      ∃ t, exec (.storeBCD x) s = .next t ∧ HaltsWith s t ⟨.memoryOutOfRange, s.pc - 2, wordXNN 0xF x 0x33, a⟩) ∧
    (4095 < s.i.toNat + x.toNat →
      ∃ t, exec (.regDump x) s = .next t ∧ HaltsWith s t ⟨.memoryOutOfRange, s.pc - 2, wordXNN 0xF x 0x55, a⟩) ∧
    (4095 < s.i.toNat + x.toNat →
      ∃ t, exec (.regLoad x) s = .next t ∧ HaltsWith s t ⟨.memoryOutOfRange, s.pc - 2, wordXNN 0xF x 0x65, a⟩) ∧
    (0 < n.toNat → 4096 < s.i.toNat + n.toNat →
      ∃ t, exec (.drawSprite x y n) s = .next t ∧ HaltsWith s t ⟨.memoryOutOfRange, s.pc - 2, wordXYN 0xD x y n, a⟩)

/-- 20_memory.md R52: what RegDump stores is what the next fetch there reads, the byte at the lower address high. -/
def Obligations.StoredBytesAreFetchedNext : Prop :=
  ∀ (x : Nibble) (s : State) (k : Nibble), s.i.toNat + x.toNat ≤ 4095 → k.toNat + 1 ≤ x.toNat →
    ∃ t, exec (.regDump x) s = .next t ∧
      fetchWord t.mem (s.effAddr k.toNat) = joinBytes (s.getV k) (s.getV (k + 1))

/-! ### Display and random (44_display_random.md) -/

/-- 44_display_random.md R150 (DRAW kept: decision D13). -/
def Obligations.ClearBlanksTheFramebufferAlone : Prop :=
  ∀ s : State, ∃ t, exec .clear s = .next t ∧ (∀ c < 64, ∀ r < 32, pixel t c r = false) ∧ t = { s with fb := t.fb }

/-- 44_display_random.md R151 (wrap: D11; bit order: D12; latching: D9; DRAW: D13). -/
def Obligations.DrawSpriteXorsWrappedPixels : Prop :=
  ∀ (x y n : Nibble) (s : State), n.toNat = 0 ∨ s.i.toNat + n.toNat ≤ 4096 →
    ∃ t, exec (.drawSprite x y n) s = .next t ∧
      (∀ c < 64, ∀ r < 32, (pixel t c r ≠ pixel s c r ↔ SpriteHits s x y n c r)) ∧
      ((∃ c < 64, ∃ r < 32, SpriteHits s x y n c r ∧ pixel s c r = true) → t.getV regF = 1) ∧
      ((∀ c < 64, ∀ r < 32, SpriteHits s x y n c r → pixel s c r = false) → t.getV regF = 0) ∧
      (∀ z, z ≠ regF → t.getV z = s.getV z) ∧ t.draw = true ∧
      t = { s with v := t.v, fb := t.fb, draw := t.draw }

/-- 44_display_random.md R151 (g), 95_test_vectors.md T5 (X, Y other than F). -/
def Obligations.DrawingTwiceRestoresTheFramebuffer : Prop :=
  ∀ (x y n : Nibble) (s : State), x ≠ regF → y ≠ regF → n.toNat = 0 ∨ s.i.toNat + n.toNat ≤ 4096 →
    ∃ t u, exec (.drawSprite x y n) s = .next t ∧ exec (.drawSprite x y n) t = .next u ∧ u.fb = s.fb ∧
      (u.getV regF = 1 ↔ ∃ c < 64, ∃ r < 32, SpriteHits s x y n c r ∧ pixel t c r = true) ∧
      (u.getV regF = 0 ∨ u.getV regF = 1)

/-- 44_display_random.md R152 (decision D27): VX is the draw masked with NN, whatever the draw. -/
def Obligations.RandomMasksOneDraw : Prop :=
  ∀ (x : Nibble) (nn : Byte) (s : State),
    ∃ t, exec (.random x nn) s = .next t ∧ t = { s with v := t.v, draws := s.draws + 1 } ∧
      (∀ k, (t.getV x).getLsbD k = ((Config.randomDraw s.draws).getLsbD k && nn.getLsbD k)) ∧
      ∀ y, y ≠ x → t.getV y = s.getV y

/-- 60_exceptions.md R228: one draw per executed Random, none by any other instruction. -/
def Obligations.OnlyRandomTakesADraw : Prop :=
  ∀ (i : Instr) (s t : State), exec i s = .next t →
    ((∃ x nn, i = .random x nn) → t.draws = s.draws + 1) ∧ ((∀ x nn, i ≠ .random x nn) → t.draws = s.draws)

/-! ### Timers and keys (45_timers_keys.md, 60_exceptions.md) -/

/-- 45_timers_keys.md R160, R162, R163. -/
def Obligations.TimerInstructionsMoveOneByte : Prop :=
  ∀ (x : Nibble) (s : State),
    (∃ t, exec (.getDelay x) s = .next t ∧ WritesReg s t x s.dt) ∧
    (∃ t, exec (.setDelay x) s = .next t ∧ t.dt = s.getV x ∧ t = { s with dt := t.dt }) ∧
    (∃ t, exec (.setSound x) s = .next t ∧ t.st = s.getV x ∧ t = { s with st := t.st })

/-- 45_timers_keys.md R161, 60_exceptions.md R210, R212, R222 (decision D19): the instruction suspends, ticks and KeyUp do
not end the wait, and KeyDown delivers the key: V[X] is written only then. -/
def Obligations.KeyDownDeliversTheWaitedKey : Prop :=
  ∀ (x : Nibble) (s : State),
    ∃ t, exec (.waitForNextKeyPress x) s = .next t ∧ t = { s with run := .waitingForKey, waitReg := x } ∧
      ∀ w : State, w.run = .waitingForKey → w.waitReg = x →
        handleEvent .cpuTick w = .next w ∧ handleEvent .timerTick w = .next w ∧
        (∀ k : Fin 16, ∃ u, handleEvent (.keyUp k.val) w = .next u ∧ u.key[k] = false ∧ u = { w with key := u.key }) ∧
        (∀ k : Fin 16, ∃ u, handleEvent (.keyDown k.val) w = .next u ∧ (u.getV x).toNat = k.val ∧ u.key[k] = true ∧
          (∀ y, y ≠ x → u.getV y = w.getV y) ∧ u = { w with v := u.v, key := u.key, run := .running })

/-- 60_exceptions.md R212 (Halted: decision D18): both timers count while Running and not otherwise. -/
def Obligations.TimerTickCountsOnlyWhileRunning : Prop :=
  ∀ s : State, ∃ t, handleEvent .timerTick s = .next t ∧
    (s.run ≠ .running → t = s) ∧
    (s.run = .running →
      t.dt.toNat = s.dt.toNat - 1 ∧ t.st.toNat = s.st.toNat - 1 ∧
      t.beeps = (if s.st.toNat = 1 then s.beeps + 1 else s.beeps) ∧
      t = { s with dt := t.dt, st := t.st, beeps := t.beeps })

/-- 45_timers_keys.md R162, R163, 95_test_vectors.md T7: after `n` timer ticks while Running the timers stand `n` lower,
never below 0, and the Beep has come exactly once if ST was 1 to `n`. -/
def Obligations.TimersReachZeroAfterExactlyTheirCount : Prop :=
  ∀ (n : Nat) (s : State), s.run = .running → s.events = List.replicate n .timerTick →
    ∃ t : State, Sys2Proof.core.run n s = .next t ∧ t.dt.toNat = s.dt.toNat - n ∧ t.st.toNat = s.st.toNat - n ∧
      t.beeps = (if 1 ≤ s.st.toNat ∧ s.st.toNat ≤ n then s.beeps + 1 else s.beeps) ∧
      t = { s with dt := t.dt, st := t.st, beeps := t.beeps, events := [] }

/-- 60_exceptions.md R226 (SetSound: decision D31; Halted: D18; the count of pulses and the queue: logs 8, 4): a Beep comes
from the timer tick that takes ST from 1 to 0 and from nothing else, and ST itself is not exported. -/
def Obligations.BeepOnlyFromTimerTickAtOne : Prop :=
  (∀ s t : State, step s = .next t →
    t.beeps = if nextEvent s = .timerTick ∧ s.run = .running ∧ s.st.toNat = 1 then s.beeps + 1 else s.beeps) ∧
  ∀ (s : State) (b : Byte), outputs { s with st := b } = outputs s

/-- 60_exceptions.md R222 (decisions D19, D28): key events in every run state; an index above 15 is refused. -/
def Obligations.KeyEventsWriteTheSnapshot : Prop :=
  ∀ s : State,
    (∀ k : Fin 16, ∃ t, handleEvent (.keyDown k.val) s = .next t ∧ (∀ j : Fin 16, t.key[j] = if j = k then true else s.key[j]) ∧
      (s.run ≠ .waitingForKey → t = { s with key := t.key }) ∧
      (s.run = .waitingForKey → (t.getV s.waitReg).toNat = k.val ∧ (∀ y, y ≠ s.waitReg → t.getV y = s.getV y) ∧
        t = { s with key := t.key, v := t.v, run := .running })) ∧
    (∀ k : Fin 16, ∃ t, handleEvent (.keyUp k.val) s = .next t ∧ (∀ j : Fin 16, t.key[j] = if j = k then false else s.key[j]) ∧
      t = { s with key := t.key }) ∧
    (∀ k : Nat, 15 < k → handleEvent (.keyDown k) s = .refused (.keyIndexNotSent k) ∧
      handleEvent (.keyUp k) s = .refused (.keyIndexNotSent k))

/-- 60_exceptions.md R227 (decision D20): Stop halts from Running and WaitingForKey, and is ignored in Halted. -/
def Obligations.StopHaltsAndReportsStopped : Prop :=
  ∀ s : State, ∃ t, handleEvent .stop s = .next t ∧
    (s.run = .halted → t = s) ∧
    (s.run ≠ .halted → HaltsWith s t ⟨.stopped, s.pc, 0, 0⟩) ∧
    (s.run ≠ .halted → s.fault.cause = .none → t.isOrderlyStop = true ∧ t.isFaultState = false)

/-! ### Whole-machine rules -/

/-- 60_exceptions.md R208: the events that would be interrupts elsewhere act on their own state and never
transfer control. -/
def Obligations.EventsNeverTransferControl : Prop :=
  ∀ s : State,
    (∀ t, handleEvent .timerTick s = .next t → t = { s with dt := t.dt, st := t.st, beeps := t.beeps }) ∧
    (∀ k t, handleEvent (.keyDown k) s = .next t →
      t = { s with key := t.key, v := t.v, run := t.run } ∧ (∀ y, y ≠ s.waitReg → t.getV y = s.getV y) ∧
      (s.run ≠ .waitingForKey → t.v = s.v ∧ t.run = s.run)) ∧
    (∀ k t, handleEvent (.keyUp k) s = .next t → t = { s with key := t.key }) ∧
    (∀ t, handleEvent .drawAck s = .next t → t = { s with draw := false }) ∧
    (∀ t, handleEvent .stop s = .next t → t = { s with run := .halted, fault := t.fault })

/-- 60_exceptions.md R207: no way back from Halted except Reset. -/
def Obligations.HaltedIsLeftOnlyByReset : Prop :=
  ∀ s t : State, s.run = .halted → step s = .next t →
    ((∃ rom font b, nextEvent s = .reset rom font b) → t.run = .running ∧ t.fault.cause = .none) ∧
    ((∀ rom font b, nextEvent s ≠ .reset rom font b) →
      t = { s with key := t.key, draw := t.draw, events := s.events.tail })

/-- 60_exceptions.md R215, R235, 45_timers_keys.md R164 (decisions D18, D20, D28): WaitingForKey is entered only by
WaitForNextKeyPress and left only by KeyDown, Stop and Reset; Halted is left only by Reset, and only for Running. -/
def Obligations.RunStateChangesOnlyAsTabled : Prop :=
  ∀ s t : State, step s = .next t →
    (s.run = .running → t.run = .waitingForKey →
      nextEvent s = .cpuTick ∧ decodeWord (fetchWord s.mem s.pc.toNat) = .waitForNextKeyPress t.waitReg) ∧
    (s.run = .waitingForKey → t.run = .running →
      (∃ k, nextEvent s = .keyDown k) ∨ ∃ rom font b, nextEvent s = .reset rom font b) ∧
    (s.run = .waitingForKey → t.run = .halted → nextEvent s = .stop) ∧
    (s.run = .running → t.run = .halted → nextEvent s = .cpuTick ∨ nextEvent s = .stop) ∧
    (s.run = .halted → t.run ≠ .halted → t.run = .running ∧ ∃ rom font b, nextEvent s = .reset rom font b)

/-- 70_reset_and_hazards.md R264, 60_exceptions.md R225: a DrawAck clears DRAW and does nothing else, and two states that
differ only in DRAW step alike, but for DRAW: nothing depends on when DrawAck arrives. -/
def Obligations.DrawFlagIsInvisibleToExecution : Prop :=
  ∀ (s : State) (b : Bool),
    handleEvent .drawAck s = .next { s with draw := false } ∧
    (∀ t, step s = .next t → ∃ u, step { s with draw := b } = .next u ∧ u = { t with draw := u.draw }) ∧
    (∀ f, step s = .fault f → step { s with draw := b } = .fault f) ∧
    (∀ q, step s = .refused q → step { s with draw := b } = .refused q)

/-- 10_state.md R30, R10 to R26, 20_memory.md R40, 45_timers_keys.md R164: which instructions can write each element. RUN
and FAULT change only under WaitForNextKeyPress and by a fault. -/
def Obligations.EachElementHasOnlyItsWriters : Prop :=
  ∀ (i : Instr) (s t : State), exec i s = .next t →
    (t.mem ≠ s.mem → ∃ x, i = .storeBCD x ∨ i = .regDump x) ∧
    (t.fb ≠ s.fb → i = .clear ∨ ∃ x y n, i = .drawSprite x y n) ∧
    (t.draw ≠ s.draw → t.draw = true ∧ ∃ x y n, i = .drawSprite x y n) ∧
    (t.i ≠ s.i → (∃ nnn, i = .loadIndex nnn) ∨ ∃ x, i = .addIndex x ∨ i = .fontIndex x) ∧
    (t.sp ≠ s.sp → i = .ret ∨ ∃ nnn, i = .call nnn) ∧
    (t.stack ≠ s.stack → ∃ nnn, i = .call nnn) ∧
    (t.dt ≠ s.dt → ∃ x, i = .setDelay x) ∧
    (t.st ≠ s.st → ∃ x, i = .setSound x) ∧
    (t.waitReg ≠ s.waitReg → ∃ x, i = .waitForNextKeyPress x) ∧
    (t.v ≠ s.v → destinations i ≠ []) ∧
    (t.pc ≠ s.pc → skipCondition s i = some true ∨ i = .ret ∨ ∃ nnn, i = .jump nnn ∨ i = .call nnn ∨ i = .jumpOffset nnn) ∧
    (t.run ≠ s.run → (t.run = .waitingForKey ∧ t.fault = s.fault ∧ ∃ x, i = .waitForNextKeyPress x) ∨
      (t = { s with run := .halted, fault := t.fault } ∧ t.fault.cause ≠ .none)) ∧
    (t.fault ≠ s.fault → t = { s with run := .halted, fault := t.fault } ∧ t.fault.cause ≠ .none) ∧
    (t.draws ≠ s.draws → ∃ x nn, i = .random x nn) ∧
    t.key = s.key ∧ t.strict = s.strict ∧ t.events = s.events ∧ t.beeps = s.beeps

/-- 10_state.md R10, R11, R30: a register changes only under an instruction that may write it. -/
def Obligations.RegistersChangeOnlyAsDestinations : Prop :=
  ∀ (i : Instr) (s t : State) (y : Nibble), exec i s = .next t → t.getV y ≠ s.getV y → y ∈ destinations i

/-- 60_exceptions.md R201: these instructions complete in every state and raise nothing of their own. -/
def Obligations.InstructionsThatCannotFault : Prop :=
  ∀ (s : State) (x y n : Nibble) (nn : Byte) (nnn : Addr12) (op : Word),
    ∀ i ∈ [Instr.sys nnn, .clear, .jump nnn, .jumpOffset nnn, .skipEqConst x nn, .skipNeConst x nn, .skipEqVal x y n,
        .skipNeVal x y n, .loadConst x nn, .addConst x nn, .loadVal x y, .orVal x y, .andVal x y, .xorVal x y,
        .addVal x y, .subVal x y, .shiftRight x y, .subValInverse x y, .shiftLeft x y, .loadIndex nnn, .addIndex x,
        .random x nn, .getDelay x, .waitForNextKeyPress x, .setDelay x, .setSound x] ++
        (if s.strict then [] else [Instr.nop op]),
      ∃ t, exec i s = .next t ∧ t.fault = s.fault ∧ (t.run = s.run ∨ i = .waitForNextKeyPress x)

/-! ### Reset (70_reset_and_hazards.md) -/

/-- 70_reset_and_hazards.md R250, R252 (zeros: decision D1; log 1): the Reset event, and its refusals. -/
def Obligations.ResetEventEstablishesTheResetState : Prop :=
  ∀ (rom font : List Byte) (b : Bool) (s : State),
    (rom.length ≤ 3584 → font.length = 80 →
      ∃ t, handleEvent (.reset rom font b) s = .next t ∧
        t = { State.reset with mem := t.mem, strict := b, events := s.events, draws := s.draws, beeps := s.beeps } ∧
        t.pc = 0x200 ∧ t.run = .running ∧ t.fault.cause = .none ∧ Memory.wf t.mem = true ∧
        (∀ k (h : k < font.length), Memory.get t.mem (0x050 + k) = font[k]) ∧
        (∀ k (h : k < rom.length), Memory.get t.mem (0x200 + k) = rom[k]) ∧
        ∀ a : Nat, a < 0x050 ∨ (0x0A0 ≤ a ∧ a < 0x200) ∨ 0x200 + rom.length ≤ a → Memory.get t.mem a = 0) ∧
    (3584 < rom.length → handleEvent (.reset rom font b) s = .refused (.romTooLong rom.length))

/-- 10_state.md R29 (zeros: decision D1, log 1): what State.reset holds. -/
def Obligations.ResetHoldsTheListedValues : Prop :=
  State.reset.pc = 0x200 ∧ State.reset.run = .running ∧ State.reset.sp = 0 ∧ State.reset.i = 0 ∧
  (∀ x, State.reset.getV x = 0) ∧ (∀ k : Fin 16, State.reset.stack[k] = 0) ∧ (∀ k : Fin 16, State.reset.key[k] = false) ∧
  (∀ c < 64, ∀ r < 32, pixel State.reset c r = false) ∧ State.reset.dt = 0 ∧ State.reset.st = 0 ∧
  State.reset.draw = false ∧ State.reset.waitReg = 0 ∧ State.reset.fault = ⟨.none, 0, 0, 0⟩ ∧
  (∀ k < 80, some (Memory.get State.reset.mem (0x050 + k)) = Config.font[k]?) ∧
  ∀ a : Nat, a < 0x050 ∨ 0x0A0 ≤ a → Memory.get State.reset.mem a = 0

/-! ### The invariant (10_state.md R27) -/

/-- 10_state.md R14, R15, R26, R27: the invariant holds at reset. -/
def Obligations.ResetMeetsTheInvariant : Prop := State.reset.Inv

/-- 10_state.md R14, R15, R26, R27: every step keeps the invariant, whatever the event. -/
def Obligations.EveryStepKeepsTheInvariant : Prop :=
  ∀ s t : State, s.Inv → step s = .next t → t.Inv

/-- 10_state.md R27, 60_exceptions.md R236: the invariant holds in every state that any sequence of events reaches. -/
def Obligations.EveryReachableStateMeetsTheInvariant : Prop :=
  ∀ s : State, Reachable s → s.Inv

/-- 60_exceptions.md R203, R222, 70_reset_and_hazards.md R252: from a state of the invariant a step always answers a next
state, but for an event that the spec tells a model to refuse. -/
def Obligations.InvariantStatesAlwaysStep : Prop :=
  ∀ s : State, s.Inv →
    (∃ t, step s = .next t) ∨
    (∃ k, 15 < k ∧ (nextEvent s = .keyDown k ∨ nextEvent s = .keyUp k) ∧ step s = .refused (.keyIndexNotSent k)) ∨
    (∃ rom font b, nextEvent s = .reset rom font b ∧
      ((3584 < rom.length ∧ step s = .refused (.romTooLong rom.length)) ∨
       (rom.length ≤ 3584 ∧ font.length ≠ 80 ∧ step s = .refused (.fontNot80Bytes font.length))))

/-- 40_control_flow.md R102: a Return that leaves the PC range can only have popped 4096, pushed by a Call at 4094. -/
def Obligations.ReturnLeavesTheRangeOnlyWithPopped4096 : Prop :=
  ∀ s t : State, s.Inv → 0 < s.sp.toNat → exec .ret s = .next t →
    t.pc.toNat < 0x200 ∨ 4095 < t.pc.toNat → t.pc.toNat = 4096
end

