-- ==== Sys2Proof/Laws/Decode.lean ====
section
/-! SUPPORT. The bits and fields of the words the encoder builds, and a word from its fields (30_encoding.md R62, R64). -/

namespace Sys2Proof

/-! ### Bits of a word -/

theorem getLsbD_wordADDR (f : Nibble) (nnn : Addr12) (k : Nat) :
    (wordADDR f nnn).getLsbD k = if k < 12 then nnn.getLsbD k else f.getLsbD (k - 12) :=
  BitVec.getLsbD_append

theorem getLsbD_wordXNN (f x : Nibble) (nn : Byte) (k : Nat) :
    (wordXNN f x nn).getLsbD k =
      if k < 8 then nn.getLsbD k else if k - 8 < 4 then x.getLsbD (k - 8) else f.getLsbD (k - 8 - 4) := by
  refine BitVec.getLsbD_append.trans ?_
  rw [BitVec.getLsbD_append]

theorem getLsbD_wordXYN (f x y n : Nibble) (k : Nat) :
    (wordXYN f x y n).getLsbD k =
      if k < 4 then n.getLsbD k else if k - 4 < 4 then y.getLsbD (k - 4)
      else if k - 4 - 4 < 4 then x.getLsbD (k - 4 - 4) else f.getLsbD (k - 4 - 4 - 4) := by
  refine BitVec.getLsbD_append.trans ?_
  rw [BitVec.getLsbD_append, BitVec.getLsbD_append]

theorem getLsbD_joinBytes (hi lo : Byte) (k : Nat) :
    (joinBytes hi lo).getLsbD k = if k < 8 then lo.getLsbD k else hi.getLsbD (k - 8) :=
  BitVec.getLsbD_append

/-! ### Fields of a word -/

@[simp] theorem family_wordADDR (f : Nibble) (nnn : Addr12) : family (wordADDR f nnn) = f := by
  apply BitVec.eq_of_getLsbD_eq; intro k hk
  rw [family, BitVec.getLsbD_extractLsb', getLsbD_wordADDR]
  interval_cases k <;> simp

@[simp] theorem fieldNNN_wordADDR (f : Nibble) (nnn : Addr12) : fieldNNN (wordADDR f nnn) = nnn := by
  apply BitVec.eq_of_getLsbD_eq; intro k hk
  rw [fieldNNN, BitVec.getLsbD_extractLsb', getLsbD_wordADDR]
  interval_cases k <;> simp

@[simp] theorem family_wordXNN (f x : Nibble) (nn : Byte) : family (wordXNN f x nn) = f := by
  apply BitVec.eq_of_getLsbD_eq; intro k hk
  rw [family, BitVec.getLsbD_extractLsb', getLsbD_wordXNN]
  interval_cases k <;> simp

@[simp] theorem fieldX_wordXNN (f x : Nibble) (nn : Byte) : fieldX (wordXNN f x nn) = x := by
  apply BitVec.eq_of_getLsbD_eq; intro k hk
  rw [fieldX, BitVec.getLsbD_extractLsb', getLsbD_wordXNN]
  interval_cases k <;> simp

@[simp] theorem fieldNN_wordXNN (f x : Nibble) (nn : Byte) : fieldNN (wordXNN f x nn) = nn := by
  apply BitVec.eq_of_getLsbD_eq; intro k hk
  rw [fieldNN, BitVec.getLsbD_extractLsb', getLsbD_wordXNN]
  interval_cases k <;> simp

@[simp] theorem family_wordXYN (f x y n : Nibble) : family (wordXYN f x y n) = f := by
  apply BitVec.eq_of_getLsbD_eq; intro k hk
  rw [family, BitVec.getLsbD_extractLsb', getLsbD_wordXYN]
  interval_cases k <;> simp

@[simp] theorem fieldX_wordXYN (f x y n : Nibble) : fieldX (wordXYN f x y n) = x := by
  apply BitVec.eq_of_getLsbD_eq; intro k hk
  rw [fieldX, BitVec.getLsbD_extractLsb', getLsbD_wordXYN]
  interval_cases k <;> simp

@[simp] theorem fieldY_wordXYN (f x y n : Nibble) : fieldY (wordXYN f x y n) = y := by
  apply BitVec.eq_of_getLsbD_eq; intro k hk
  rw [fieldY, BitVec.getLsbD_extractLsb', getLsbD_wordXYN]
  interval_cases k <;> simp

@[simp] theorem fieldN_wordXYN (f x y n : Nibble) : fieldN (wordXYN f x y n) = n := by
  apply BitVec.eq_of_getLsbD_eq; intro k hk
  rw [fieldN, BitVec.getLsbD_extractLsb', getLsbD_wordXYN]
  interval_cases k <;> simp

/-! ### A word from its fields -/

theorem wordADDR_fields (op : Word) : wordADDR (family op) (fieldNNN op) = op := by
  apply BitVec.eq_of_getLsbD_eq; intro k hk
  rw [getLsbD_wordADDR]
  simp only [family, fieldNNN, BitVec.getLsbD_extractLsb']
  interval_cases k <;> simp

theorem wordXNN_fields (op : Word) : wordXNN (family op) (fieldX op) (fieldNN op) = op := by
  apply BitVec.eq_of_getLsbD_eq; intro k hk
  rw [getLsbD_wordXNN]
  simp only [family, fieldX, fieldNN, BitVec.getLsbD_extractLsb']
  interval_cases k <;> simp

theorem wordXYN_fields (op : Word) : wordXYN (family op) (fieldX op) (fieldY op) (fieldN op) = op := by
  apply BitVec.eq_of_getLsbD_eq; intro k hk
  rw [getLsbD_wordXYN]
  simp only [family, fieldX, fieldY, fieldN, BitVec.getLsbD_extractLsb']
  interval_cases k <;> simp

@[simp] theorem joinBytes_fields (op : Word) : joinBytes (highByte op) (lowByte op) = op := by
  apply BitVec.eq_of_getLsbD_eq; intro k hk
  rw [getLsbD_joinBytes]
  simp only [highByte, lowByte, BitVec.getLsbD_extractLsb']
  interval_cases k <;> simp

theorem decode_cons_cons (hi lo : Byte) (rest : List Byte) :
    decode (hi :: lo :: rest) = .ok (decodeWord (joinBytes hi lo), rest) := rfl

/-- The bytes of an instruction decode to what its word decodes to. -/
theorem decode_encodeBytes (i : Instr) (rest : List Byte) :
    decode (encodeBytes i ++ rest) = .ok (decodeWord (encode i), rest) := by
  simp [encodeBytes, decode]

/-! ### The masks of the table (30_encoding.md R64) -/

/-- The mask 0xF000 keeps the family. -/
theorem mask_family (op : Word) (f : Nibble) : op &&& 0xF000 = wordADDR f 0 ↔ family op = f := by
  have key : ∀ k < 16, (op &&& 0xF000 : Word).getLsbD k = (wordADDR (family op) 0).getLsbD k := by
    intro k hk
    rw [getLsbD_wordADDR, BitVec.getLsbD_and]
    simp only [family, BitVec.getLsbD_extractLsb']
    interval_cases k <;> simp
  rw [BitVec.eq_of_getLsbD_eq key]
  exact ⟨fun h => by simpa using congrArg family h, fun h => by rw [h]⟩

/-- The mask 0xF0FF keeps the family and the trailing byte. -/
theorem mask_family_byte (op : Word) (f : Nibble) (nn : Byte) :
    op &&& 0xF0FF = wordXNN f 0 nn ↔ family op = f ∧ fieldNN op = nn := by
  have key : ∀ k < 16, (op &&& 0xF0FF : Word).getLsbD k = (wordXNN (family op) 0 (fieldNN op)).getLsbD k := by
    intro k hk
    rw [getLsbD_wordXNN, BitVec.getLsbD_and]
    simp only [family, fieldNN, BitVec.getLsbD_extractLsb']
    interval_cases k <;> simp
  rw [BitVec.eq_of_getLsbD_eq key]
  exact ⟨fun h => ⟨by simpa using congrArg family h, by simpa using congrArg fieldNN h⟩, fun h => by rw [h.1, h.2]⟩

/-- The mask 0xF00F keeps the family and the trailing nibble. -/
theorem mask_family_nibble (op : Word) (f n : Nibble) :
    op &&& 0xF00F = wordXYN f 0 0 n ↔ family op = f ∧ fieldN op = n := by
  have key : ∀ k < 16, (op &&& 0xF00F : Word).getLsbD k = (wordXYN (family op) 0 0 (fieldN op)).getLsbD k := by
    intro k hk
    rw [getLsbD_wordXYN, BitVec.getLsbD_and]
    simp only [family, fieldN, BitVec.getLsbD_extractLsb']
    interval_cases k <;> simp
  rw [BitVec.eq_of_getLsbD_eq key]
  exact ⟨fun h => ⟨by simpa using congrArg family h, by simpa using congrArg fieldN h⟩, fun h => by rw [h.1, h.2]⟩

/-- A 16-bit table word as memory holds it. -/
theorem tableBytes_16 (w : Nat) : tableBytes 16 w = [highByte (BitVec.ofNat 16 w), lowByte (BitVec.ofNat 16 w)] := by
  have : BitVec.ofNat 16 (w % 2 ^ min 16 16) = BitVec.ofNat 16 w := by
    apply BitVec.eq_of_toNat_eq; simp
  simp only [tableBytes, this]

end Sys2Proof
end

