-- ==== Sys2Proof/Laws/Frame.lean ====
section
/-! SUPPORT. The framebuffer's cells (10_state.md R17) and the pixel loop of DrawSprite (44_display_random.md R151). -/

namespace Sys2Proof.Machine

theorem pixelIndex_lt (x y col row : Nat) : pixelIndex x y col row < 2048 := by
  unfold pixelIndex; omega

@[simp] theorem cell_blank (k : Nat) : Frame.cell Frame.blank k = false := by
  unfold Frame.cell Frame.row Frame.blank
  by_cases h : k / 64 < 32 <;> simp [h]

/-- A flip changes its own cell and no other. -/
theorem cell_flip (fb : Frame) {k j : Nat} (hk : k < 2048) (_hj : j < 2048) :
    Frame.cell (Frame.flip fb k) j = if j = k then !Frame.cell fb j else Frame.cell fb j := by
  have hkr : k / 64 < 32 := by omega
  unfold Frame.cell Frame.flip Frame.row
  by_cases hr : k / 64 = j / 64
  · have hj : j / 64 < 32 := by omega
    by_cases hc : k % 64 = j % 64
    · have : j = k := by omega
      subst this; simp [hj, Nat.mod_lt]
    · have hne : j ≠ k := fun e => hc (by rw [e])
      have hlt : j % 64 < 64 := Nat.mod_lt _ (by omega)
      simp [hr, hj, hne, BitVec.getLsbD_twoPow, hc]
  · have hne : j ≠ k := fun e => hr (by rw [e])
    simp [hr, hne]

/-- Two framebuffers with the same cells are equal. -/
theorem frame_ext {a b : Frame} (h : ∀ k < 2048, Frame.cell a k = Frame.cell b k) : a = b := by
  apply Vector.ext; intro r hr
  apply BitVec.eq_of_getLsbD_eq; intro c hc
  have := h (r * 64 + c) (by omega)
  have e1 : (r * 64 + c) / 64 = r := by omega
  have e2 : (r * 64 + c) % 64 = c := by omega
  simpa [Frame.cell, Frame.row, e1, e2, hr] using this

/-- A cell after the pixel loop: flipped once for every time it occurs in the list. -/
theorem cell_drawCells (ks : List Nat) (fb : Frame) (hit : Bool) (hks : ∀ k ∈ ks, k < 2048) (j : Nat) (hj : j < 2048) :
    Frame.cell (drawCells fb hit ks).1 j = (Frame.cell fb j ^^ decide (ks.count j % 2 = 1)) := by
  induction ks generalizing fb hit with
  | nil => simp [drawCells]
  | cons k ks ih =>
    rw [drawCells, ih _ _ (fun d hd => hks d (by simp [hd])), cell_flip _ (hks k (by simp)) hj, List.count_cons]
    by_cases h : j = k
    · subst h
      rcases Nat.mod_two_eq_zero_or_one (ks.count j) with e | e
      · have : (ks.count j + 1) % 2 = 1 := by omega
        simp [e, this]
      · have : (ks.count j + 1) % 2 = 0 := by omega
        simp [e, this]
    · simp [h, Ne.symm h, beq_iff_eq]

/-- Where no cell occurs twice, the loop reports a collision exactly when some cell of the list was 1 before it. -/
theorem hit_drawCells (ks : List Nat) (fb : Frame) (hit : Bool) (hks : ∀ k ∈ ks, k < 2048) (hnd : ks.Nodup) :
    (drawCells fb hit ks).2 = (hit || ks.any fun k => Frame.cell fb k) := by
  induction ks generalizing fb hit with
  | nil => simp [drawCells]
  | cons k ks ih =>
    rw [List.nodup_cons] at hnd
    rw [drawCells, ih _ _ (fun d hd => hks d (by simp [hd])) hnd.2]
    have : (ks.any fun d => Frame.cell (Frame.flip fb k) d) = ks.any fun d => Frame.cell fb d := by
      rw [Bool.eq_iff_iff, List.any_eq_true, List.any_eq_true]
      refine exists_congr fun d => and_congr_right fun hd => ?_
      rw [cell_flip _ (hks k (by simp)) (hks d (by simp [hd])), if_neg]
      rintro rfl; exact hnd.1 hd
    rw [this]; simp [Bool.or_assoc]

theorem spriteCells_lt (bs : List Byte) (x y row : Nat) : ∀ k ∈ spriteCells x y row bs, k < 2048 := by
  induction bs generalizing row with
  | nil => simp [spriteCells]
  | cons b bs ih =>
    intro k hk
    rcases List.mem_append.mp hk with hk | hk
    · obtain ⟨c, -, rfl⟩ := List.mem_map.mp hk
      exact pixelIndex_lt _ _ _ _
    · exact ih _ _ hk

/-- The cells of a sprite are the pixels of the bits that are 1. -/
theorem mem_spriteCells (bs : List Byte) (x y row k : Nat) :
    k ∈ spriteCells x y row bs ↔
      ∃ r, ∃ h : r < bs.length, ∃ c < 8, bs[r].getLsbD (7 - c) = true ∧ k = pixelIndex x y c (row + r) := by
  induction bs generalizing row with
  | nil => simp [spriteCells]
  | cons b bs ih =>
    rw [spriteCells, List.mem_append, ih]
    constructor
    · rintro (h | ⟨r, h, c, hc, hb, rfl⟩)
      · obtain ⟨c, hc, rfl⟩ := List.mem_map.mp h
        rw [List.mem_filter, List.mem_range] at hc
        exact ⟨0, by simp, c, hc.1, by simpa using hc.2, rfl⟩
      · exact ⟨r + 1, by simpa using h, c, hc, by simpa using hb, by rw [show row + (r + 1) = row + 1 + r by omega]⟩
    · rintro ⟨r, h, c, hc, hb, rfl⟩
      cases r with
      | zero =>
        left
        exact List.mem_map.mpr ⟨c, List.mem_filter.mpr ⟨List.mem_range.mpr hc, by simpa using hb⟩, rfl⟩
      | succ r =>
        right
        exact ⟨r, by simpa using h, c, hc, by simpa using hb, by rw [show row + 1 + r = row + (r + 1) by omega]⟩

/-- Within one DrawSprite no cell is hit twice: 8 columns, at most 32 rows (44_display_random.md R151 d). -/
theorem pixelIndex_inj {x y c r c' r' : Nat} (hc : c < 8) (hc' : c' < 8) (hr : r < 32) (hr' : r' < 32)
    (h : pixelIndex x y c r = pixelIndex x y c' r') : c = c' ∧ r = r' := by
  unfold pixelIndex at h; omega

theorem spriteCells_nodup (bs : List Byte) (x y row : Nat) (hlen : row + bs.length ≤ 32) :
    (spriteCells x y row bs).Nodup := by
  induction bs generalizing row with
  | nil => simp [spriteCells]
  | cons b bs ih =>
    simp only [List.length_cons] at hlen
    rw [spriteCells, List.nodup_append]
    refine ⟨?_, ih _ (by omega), ?_⟩
    · refine List.Nodup.map_on ?_ (List.nodup_range.filter _)
      intro c hc c' hc' h
      rw [List.mem_filter, List.mem_range] at hc hc'
      exact (pixelIndex_inj hc.1 hc'.1 (by omega) (by omega) h).1
    · intro k hk k' hk' e
      subst e
      obtain ⟨c, hc, rfl⟩ := List.mem_map.mp hk
      rw [List.mem_filter, List.mem_range] at hc
      obtain ⟨r, hr, c', hc', -, h⟩ := (mem_spriteCells _ _ _ _ _).mp hk'
      have := (pixelIndex_inj hc.1 hc' (by omega) (by omega) h).2
      omega

end Sys2Proof.Machine
end

