-- ==== Sys2Proof/Laws/State.lean ====
section
/-! SUPPORT. What each named update leaves in each field, so that no later proof unfolds a record update. -/

namespace Sys2Proof.Machine

/-! ### setV -/

@[simp] theorem setV_v (s : State) (x : Nibble) (b : Byte) : (s.setV x b).v = s.v.set x.toNat b x.isLt := rfl
@[simp] theorem setV_i (s : State) (x : Nibble) (b : Byte) : (s.setV x b).i = s.i := rfl
@[simp] theorem setV_pc (s : State) (x : Nibble) (b : Byte) : (s.setV x b).pc = s.pc := rfl
@[simp] theorem setV_sp (s : State) (x : Nibble) (b : Byte) : (s.setV x b).sp = s.sp := rfl
@[simp] theorem setV_stack (s : State) (x : Nibble) (b : Byte) : (s.setV x b).stack = s.stack := rfl
@[simp] theorem setV_mem (s : State) (x : Nibble) (b : Byte) : (s.setV x b).mem = s.mem := rfl
@[simp] theorem setV_fb (s : State) (x : Nibble) (b : Byte) : (s.setV x b).fb = s.fb := rfl
@[simp] theorem setV_dt (s : State) (x : Nibble) (b : Byte) : (s.setV x b).dt = s.dt := rfl
@[simp] theorem setV_st (s : State) (x : Nibble) (b : Byte) : (s.setV x b).st = s.st := rfl
@[simp] theorem setV_key (s : State) (x : Nibble) (b : Byte) : (s.setV x b).key = s.key := rfl
@[simp] theorem setV_draw (s : State) (x : Nibble) (b : Byte) : (s.setV x b).draw = s.draw := rfl
@[simp] theorem setV_run (s : State) (x : Nibble) (b : Byte) : (s.setV x b).run = s.run := rfl
@[simp] theorem setV_waitReg (s : State) (x : Nibble) (b : Byte) : (s.setV x b).waitReg = s.waitReg := rfl
@[simp] theorem setV_fault (s : State) (x : Nibble) (b : Byte) : (s.setV x b).fault = s.fault := rfl
@[simp] theorem setV_strict (s : State) (x : Nibble) (b : Byte) : (s.setV x b).strict = s.strict := rfl
@[simp] theorem setV_events (s : State) (x : Nibble) (b : Byte) : (s.setV x b).events = s.events := rfl
@[simp] theorem setV_draws (s : State) (x : Nibble) (b : Byte) : (s.setV x b).draws = s.draws := rfl
@[simp] theorem setV_beeps (s : State) (x : Nibble) (b : Byte) : (s.setV x b).beeps = s.beeps := rfl

/-! ### setVFlag -/

@[simp] theorem setVFlag_i (s : State) (x : Nibble) (r : Byte) (f : Bool) : (s.setVFlag x r f).i = s.i := rfl
@[simp] theorem setVFlag_pc (s : State) (x : Nibble) (r : Byte) (f : Bool) : (s.setVFlag x r f).pc = s.pc := rfl
@[simp] theorem setVFlag_sp (s : State) (x : Nibble) (r : Byte) (f : Bool) : (s.setVFlag x r f).sp = s.sp := rfl
@[simp] theorem setVFlag_stack (s : State) (x : Nibble) (r : Byte) (f : Bool) : (s.setVFlag x r f).stack = s.stack := rfl
@[simp] theorem setVFlag_mem (s : State) (x : Nibble) (r : Byte) (f : Bool) : (s.setVFlag x r f).mem = s.mem := rfl
@[simp] theorem setVFlag_fb (s : State) (x : Nibble) (r : Byte) (f : Bool) : (s.setVFlag x r f).fb = s.fb := rfl
@[simp] theorem setVFlag_dt (s : State) (x : Nibble) (r : Byte) (f : Bool) : (s.setVFlag x r f).dt = s.dt := rfl
@[simp] theorem setVFlag_st (s : State) (x : Nibble) (r : Byte) (f : Bool) : (s.setVFlag x r f).st = s.st := rfl
@[simp] theorem setVFlag_key (s : State) (x : Nibble) (r : Byte) (f : Bool) : (s.setVFlag x r f).key = s.key := rfl
@[simp] theorem setVFlag_draw (s : State) (x : Nibble) (r : Byte) (f : Bool) : (s.setVFlag x r f).draw = s.draw := rfl
@[simp] theorem setVFlag_run (s : State) (x : Nibble) (r : Byte) (f : Bool) : (s.setVFlag x r f).run = s.run := rfl
@[simp] theorem setVFlag_waitReg (s : State) (x : Nibble) (r : Byte) (f : Bool) : (s.setVFlag x r f).waitReg = s.waitReg := rfl
@[simp] theorem setVFlag_fault (s : State) (x : Nibble) (r : Byte) (f : Bool) : (s.setVFlag x r f).fault = s.fault := rfl
@[simp] theorem setVFlag_strict (s : State) (x : Nibble) (r : Byte) (f : Bool) : (s.setVFlag x r f).strict = s.strict := rfl
@[simp] theorem setVFlag_events (s : State) (x : Nibble) (r : Byte) (f : Bool) : (s.setVFlag x r f).events = s.events := rfl
@[simp] theorem setVFlag_draws (s : State) (x : Nibble) (r : Byte) (f : Bool) : (s.setVFlag x r f).draws = s.draws := rfl
@[simp] theorem setVFlag_beeps (s : State) (x : Nibble) (r : Byte) (f : Bool) : (s.setVFlag x r f).beeps = s.beeps := rfl

/-! ### enterFault -/

@[simp] theorem enterFault_v (c : Cause) (a op addr : Word) (s : State) : (enterFault c a op addr s).v = s.v := rfl
@[simp] theorem enterFault_i (c : Cause) (a op addr : Word) (s : State) : (enterFault c a op addr s).i = s.i := rfl
@[simp] theorem enterFault_pc (c : Cause) (a op addr : Word) (s : State) : (enterFault c a op addr s).pc = s.pc := rfl
@[simp] theorem enterFault_sp (c : Cause) (a op addr : Word) (s : State) : (enterFault c a op addr s).sp = s.sp := rfl
@[simp] theorem enterFault_stack (c : Cause) (a op addr : Word) (s : State) : (enterFault c a op addr s).stack = s.stack := rfl
@[simp] theorem enterFault_mem (c : Cause) (a op addr : Word) (s : State) : (enterFault c a op addr s).mem = s.mem := rfl
@[simp] theorem enterFault_fb (c : Cause) (a op addr : Word) (s : State) : (enterFault c a op addr s).fb = s.fb := rfl
@[simp] theorem enterFault_dt (c : Cause) (a op addr : Word) (s : State) : (enterFault c a op addr s).dt = s.dt := rfl
@[simp] theorem enterFault_st (c : Cause) (a op addr : Word) (s : State) : (enterFault c a op addr s).st = s.st := rfl
@[simp] theorem enterFault_key (c : Cause) (a op addr : Word) (s : State) : (enterFault c a op addr s).key = s.key := rfl
@[simp] theorem enterFault_draw (c : Cause) (a op addr : Word) (s : State) : (enterFault c a op addr s).draw = s.draw := rfl
@[simp] theorem enterFault_run (c : Cause) (a op addr : Word) (s : State) : (enterFault c a op addr s).run = .halted := rfl
@[simp] theorem enterFault_waitReg (c : Cause) (a op addr : Word) (s : State) : (enterFault c a op addr s).waitReg = s.waitReg := rfl
@[simp] theorem enterFault_fault (c : Cause) (a op addr : Word) (s : State) : (enterFault c a op addr s).fault = if s.fault.cause = .none then ⟨c, a, op, addr⟩ else s.fault := rfl
@[simp] theorem enterFault_strict (c : Cause) (a op addr : Word) (s : State) : (enterFault c a op addr s).strict = s.strict := rfl
@[simp] theorem enterFault_events (c : Cause) (a op addr : Word) (s : State) : (enterFault c a op addr s).events = s.events := rfl
@[simp] theorem enterFault_draws (c : Cause) (a op addr : Word) (s : State) : (enterFault c a op addr s).draws = s.draws := rfl
@[simp] theorem enterFault_beeps (c : Cause) (a op addr : Word) (s : State) : (enterFault c a op addr s).beeps = s.beeps := rfl

/-! ### pushPC -/

@[simp] theorem pushPC_v (s : State) : (pushPC s).v = s.v := rfl
@[simp] theorem pushPC_i (s : State) : (pushPC s).i = s.i := rfl
@[simp] theorem pushPC_pc (s : State) : (pushPC s).pc = s.pc := rfl
@[simp] theorem pushPC_sp (s : State) : (pushPC s).sp = s.sp + 1 := rfl
@[simp] theorem pushPC_stack (s : State) : (pushPC s).stack = s.stack.setIfInBounds s.sp.toNat s.pc := rfl
@[simp] theorem pushPC_mem (s : State) : (pushPC s).mem = s.mem := rfl
@[simp] theorem pushPC_fb (s : State) : (pushPC s).fb = s.fb := rfl
@[simp] theorem pushPC_dt (s : State) : (pushPC s).dt = s.dt := rfl
@[simp] theorem pushPC_st (s : State) : (pushPC s).st = s.st := rfl
@[simp] theorem pushPC_key (s : State) : (pushPC s).key = s.key := rfl
@[simp] theorem pushPC_draw (s : State) : (pushPC s).draw = s.draw := rfl
@[simp] theorem pushPC_run (s : State) : (pushPC s).run = s.run := rfl
@[simp] theorem pushPC_waitReg (s : State) : (pushPC s).waitReg = s.waitReg := rfl
@[simp] theorem pushPC_fault (s : State) : (pushPC s).fault = s.fault := rfl
@[simp] theorem pushPC_strict (s : State) : (pushPC s).strict = s.strict := rfl
@[simp] theorem pushPC_events (s : State) : (pushPC s).events = s.events := rfl
@[simp] theorem pushPC_draws (s : State) : (pushPC s).draws = s.draws := rfl
@[simp] theorem pushPC_beeps (s : State) : (pushPC s).beeps = s.beeps := rfl

/-! ### dropEvent -/

@[simp] theorem dropEvent_v (s : State) : (dropEvent s).v = s.v := rfl
@[simp] theorem dropEvent_i (s : State) : (dropEvent s).i = s.i := rfl
@[simp] theorem dropEvent_pc (s : State) : (dropEvent s).pc = s.pc := rfl
@[simp] theorem dropEvent_sp (s : State) : (dropEvent s).sp = s.sp := rfl
@[simp] theorem dropEvent_stack (s : State) : (dropEvent s).stack = s.stack := rfl
@[simp] theorem dropEvent_mem (s : State) : (dropEvent s).mem = s.mem := rfl
@[simp] theorem dropEvent_fb (s : State) : (dropEvent s).fb = s.fb := rfl
@[simp] theorem dropEvent_dt (s : State) : (dropEvent s).dt = s.dt := rfl
@[simp] theorem dropEvent_st (s : State) : (dropEvent s).st = s.st := rfl
@[simp] theorem dropEvent_key (s : State) : (dropEvent s).key = s.key := rfl
@[simp] theorem dropEvent_draw (s : State) : (dropEvent s).draw = s.draw := rfl
@[simp] theorem dropEvent_run (s : State) : (dropEvent s).run = s.run := rfl
@[simp] theorem dropEvent_waitReg (s : State) : (dropEvent s).waitReg = s.waitReg := rfl
@[simp] theorem dropEvent_fault (s : State) : (dropEvent s).fault = s.fault := rfl
@[simp] theorem dropEvent_strict (s : State) : (dropEvent s).strict = s.strict := rfl
@[simp] theorem dropEvent_events (s : State) : (dropEvent s).events = s.events.tail := rfl
@[simp] theorem dropEvent_draws (s : State) : (dropEvent s).draws = s.draws := rfl
@[simp] theorem dropEvent_beeps (s : State) : (dropEvent s).beeps = s.beeps := rfl

end Sys2Proof.Machine
end

