-- ==== Sys2Proof/Laws/Registers.lean ====
section
/-! SUPPORT. Reading a register after writing one (10_state.md R10, 42_load_alu.md R120). -/

namespace Sys2Proof.Machine

@[simp] theorem getV_setV_same (s : State) (x : Nibble) (b : Byte) : (s.setV x b).getV x = b := by
  simp [State.getV, State.setV]

theorem getV_setV_ne (s : State) {x y : Nibble} (b : Byte) (h : y ≠ x) : (s.setV x b).getV y = s.getV y := by
  have : x.toNat ≠ y.toNat := fun e => h (BitVec.eq_of_toNat_eq e.symm)
  simp [State.getV, State.setV, Vector.getElem_set_ne _ _ this]

/-- What a register holds after a write. -/
theorem getV_setV (s : State) (x y : Nibble) (b : Byte) :
    (s.setV x b).getV y = if y = x then b else s.getV y := by
  by_cases h : y = x
  · subst h; simp
  · simp [h, getV_setV_ne]

@[simp] theorem getV_setVFlag_flag (s : State) (x : Nibble) (r : Byte) (f : Bool) :
    (s.setVFlag x r f).getV regF = flagByte f := by
  simp [State.setVFlag]

theorem getV_setVFlag_result (s : State) {x : Nibble} (r : Byte) (f : Bool) (h : x ≠ regF) :
    (s.setVFlag x r f).getV x = r := by
  simp [State.setVFlag, getV_setV_ne, h]

theorem getV_setVFlag_other (s : State) {x y : Nibble} (r : Byte) (f : Bool) (hx : y ≠ x) (hf : y ≠ regF) :
    (s.setVFlag x r f).getV y = s.getV y := by
  simp [State.setVFlag, getV_setV_ne, hx, hf]

/-- Two register files that read alike are equal. -/
theorem v_ext {s t : State} (h : ∀ x, t.getV x = s.getV x) : t.v = s.v := by
  apply Vector.ext
  intro j hj
  have := h (BitVec.ofNat 4 j)
  simpa [State.getV, BitVec.toNat_ofNat, Nat.mod_eq_of_lt hj] using this

/-- RegLoad's registers (43_index_memory.md R145). -/
theorem getV_loadRegs (s : State) (x y : Nibble) (bytes : List Byte) :
    State.getV { s with v := loadRegs s.v x bytes } y =
      if y.toNat ≤ x.toNat then bytes.getD y.toNat 0 else s.getV y := by
  simp [State.getV, loadRegs]

theorem regsUpTo_length (s : State) (x : Nibble) : (s.regsUpTo x).length = x.toNat + 1 := by
  have : x.toNat < 16 := x.isLt
  simp [State.regsUpTo]; omega

theorem regsUpTo_getElem (s : State) (x : Nibble) (k : Nat) (hk : k ≤ x.toNat)
    (h : k < (s.regsUpTo x).length) : (s.regsUpTo x)[k] = s.getV (BitVec.ofNat 4 k) := by
  have : x.toNat < 16 := x.isLt
  simp [State.regsUpTo, State.getV, BitVec.toNat_ofNat, Nat.mod_eq_of_lt (show k < 16 by omega)]

@[simp] theorem flagByte_true : flagByte true = 1 := rfl
@[simp] theorem flagByte_false : flagByte false = 0 := rfl

end Sys2Proof.Machine
end

