-- ==== Sys2Proof/Laws/Memory.lean ====
section
/-! SUPPORT. The laws of memory: a read after a write, and the canonical form kept by every memory operation. -/

namespace Sys2Proof.Machine

/-! ### Reading after writing -/

theorem get_erase_same (m : Memory) (a : Nat) : Memory.get (Memory.erase m a) a = Memory.unlisted a := by
  induction m with
  | nil => rfl
  | cons c m ih =>
    by_cases h : c.1 = a
    · simpa [Memory.erase, h] using ih
    · have : Memory.erase (c :: m) a = c :: Memory.erase m a := by simp [Memory.erase, h]
      rw [this]; simpa [Memory.get, h] using ih

theorem get_erase_ne (m : Memory) {a b : Nat} (h : b ≠ a) : Memory.get (Memory.erase m a) b = Memory.get m b := by
  induction m with
  | nil => rfl
  | cons c m ih =>
    by_cases hc : c.1 = a
    · have : Memory.erase (c :: m) a = Memory.erase m a := by simp [Memory.erase, hc]
      rw [this, ih]; simp [Memory.get, show c.1 ≠ b by omega]
    · have : Memory.erase (c :: m) a = c :: Memory.erase m a := by simp [Memory.erase, hc]
      rw [this]; simp [Memory.get, ih]

theorem get_insert_same (m : Memory) (a : Nat) (w : Byte) (h : ∀ c ∈ m, c.1 ≠ a) :
    Memory.get (Memory.insert m a w) a = w := by
  induction m with
  | nil => simp [Memory.insert, Memory.get]
  | cons c m ih =>
    have hc : c.1 ≠ a := h c (by simp)
    by_cases hlt : a < c.1
    · simp [Memory.insert, hlt, Memory.get]
    · simp [Memory.insert, hlt, Memory.get, hc, ih fun d hd => h d (by simp [hd])]

theorem get_insert_ne (m : Memory) {a b : Nat} (w : Byte) (h : b ≠ a) :
    Memory.get (Memory.insert m a w) b = Memory.get m b := by
  induction m with
  | nil => simp [Memory.insert, Memory.get, h.symm]
  | cons c m ih =>
    by_cases hlt : a < c.1
    · simp [Memory.insert, hlt, Memory.get, h.symm]
    · simp [Memory.insert, hlt, Memory.get, ih]

theorem erase_fst_ne (m : Memory) (a : Nat) : ∀ c ∈ Memory.erase m a, c.1 ≠ a := by
  intro c hc; simpa [Memory.erase] using (List.mem_filter.mp hc).2

/-- A read of a byte after a write of one, for every memory. -/
theorem get_put (m : Memory) (a b : Nat) (w : Byte) :
    Memory.get (Memory.put m a w) b = if b = a then w else Memory.get m b := by
  unfold Memory.put
  by_cases hb : b = a
  · subst hb
    split
    · rename_i hw; simp [get_erase_same, hw]
    · simp [get_insert_same _ _ _ (erase_fst_ne m b)]
  · split
    · simp [get_erase_ne _ hb]
    · simp [get_insert_ne _ _ hb, get_erase_ne _ hb]

/-- A byte outside the bytes written reads as before. -/
theorem get_putBytes_outside (ws : List Byte) (m : Memory) (a b : Nat) (h : b < a ∨ a + ws.length ≤ b) :
    Memory.get (Memory.putBytes m a ws) b = Memory.get m b := by
  induction ws generalizing m a with
  | nil => rfl
  | cons w ws ih =>
    simp only [List.length_cons] at h
    rw [Memory.putBytes, ih _ _ (by omega), get_put, if_neg (by omega)]

/-- A byte among the bytes written reads as what was written. -/
theorem get_putBytes_inside (ws : List Byte) (m : Memory) (a k : Nat) (h : k < ws.length) :
    Memory.get (Memory.putBytes m a ws) (a + k) = ws[k] := by
  induction ws generalizing m a k with
  | nil => simp at h
  | cons w ws ih =>
    cases k with
    | zero => rw [Memory.putBytes, get_putBytes_outside _ _ _ _ (by omega), get_put]; simp
    | succ k =>
      simp only [List.length_cons] at h
      rw [Memory.putBytes, show a + (k + 1) = a + 1 + k by omega, ih _ _ _ (by omega)]; simp

/-! ### The canonical form -/

/-- The addresses of a canonical memory are strictly rising, and its entries are in range and not redundant. -/
theorem wf_iff (m : Memory) :
    Memory.wf m = true ↔
      (∀ c ∈ m, c.1 < 4096 ∧ c.2 ≠ Memory.unlisted c.1) ∧ m.Pairwise (fun c d => c.1 < d.1) := by
  induction m with
  | nil => simp [Memory.wf]
  | cons c m ih =>
    obtain ⟨a, w⟩ := c
    simp [Memory.wf, ih, List.pairwise_cons]
    tauto

theorem wf_erase {m : Memory} (h : Memory.wf m = true) (a : Nat) : Memory.wf (Memory.erase m a) = true := by
  rw [wf_iff] at *
  exact ⟨fun c hc => h.1 c (List.mem_filter.mp hc).1, h.2.filter _⟩

theorem mem_insert {m : Memory} {a : Nat} {w : Byte} {c : Host.Cell} :
    c ∈ Memory.insert m a w ↔ c = (a, w) ∨ c ∈ m := by
  induction m with
  | nil => simp [Memory.insert]
  | cons d m ih =>
    by_cases hlt : a < d.1
    · simp [Memory.insert, hlt]
    · simp [Memory.insert, hlt, ih]; tauto

theorem pairwise_insert {m : Memory} {a : Nat} {w : Byte} (h : m.Pairwise (fun c d => c.1 < d.1))
    (hne : ∀ c ∈ m, c.1 ≠ a) : (Memory.insert m a w).Pairwise (fun c d => c.1 < d.1) := by
  induction m with
  | nil => simp [Memory.insert]
  | cons d m ih =>
    rw [List.pairwise_cons] at h
    by_cases hlt : a < d.1
    · simp only [Memory.insert, hlt, if_true, List.pairwise_cons]
      refine ⟨?_, h.1, h.2⟩
      intro c hc
      rcases List.mem_cons.mp hc with rfl | hc
      · exact hlt
      · exact lt_trans hlt (h.1 c hc)
    · simp only [Memory.insert, hlt, if_false, List.pairwise_cons]
      refine ⟨?_, ih h.2 fun c hc => hne c (by simp [hc])⟩
      intro c hc
      rcases mem_insert.mp hc with rfl | hc
      · have := hne d (by simp); simp only; omega
      · exact h.1 c hc

/-- A write in the address space keeps the canonical form. -/
theorem wf_put {m : Memory} (h : Memory.wf m = true) {a : Nat} (ha : a < 4096) (w : Byte) :
    Memory.wf (Memory.put m a w) = true := by
  unfold Memory.put
  split
  · exact wf_erase h a
  · rename_i hw
    have he := (wf_iff _).mp (wf_erase h a)
    rw [wf_iff]
    refine ⟨?_, pairwise_insert he.2 (erase_fst_ne m a)⟩
    intro c hc
    rcases mem_insert.mp hc with rfl | hc
    · exact ⟨ha, hw⟩
    · exact he.1 c hc

/-- A block of writes in the address space keeps the canonical form. -/
theorem wf_putBytes (ws : List Byte) {m : Memory} (h : Memory.wf m = true) (a : Nat) (ha : a + ws.length ≤ 4096) :
    Memory.wf (Memory.putBytes m a ws) = true := by
  induction ws generalizing m a with
  | nil => exact h
  | cons w ws ih =>
    simp only [List.length_cons] at ha
    exact ih (wf_put h (by omega) w) (a + 1) (by omega)

theorem getBytes_length (m : Memory) (a n : Nat) : (Memory.getBytes m a n).length = n := by
  simp [Memory.getBytes]

theorem getBytes_getElem (m : Memory) (a n k : Nat) (h : k < (Memory.getBytes m a n).length) :
    (Memory.getBytes m a n)[k] = Memory.get m (a + k) := by
  simp [Memory.getBytes]

/-! ### The bounds check -/

/-- A block is in range exactly when its last byte is. -/
theorem outOfRange_eq_none (a n : Nat) : outOfRange a n = none ↔ n = 0 ∨ a + n ≤ 4096 := by
  unfold outOfRange; split <;> simp <;> omega

/-- The address a failed check reports is the lowest one above 4095 that the access would touch. -/
theorem outOfRange_eq_some (a n bad : Nat) :
    outOfRange a n = some bad ↔ 0 < n ∧ 4096 < a + n ∧ bad = max a 4096 := by
  unfold outOfRange; split <;> simp <;> omega

end Sys2Proof.Machine
end

