-- ==== Sys2Proof/Laws/Ops.lean ====
section
/-! SUPPORT. Everything each shared operation can do, said once; later proofs cite these instead of unfolding. -/

namespace Sys2Proof.Machine

/-- A raised fault halts, reports and changes nothing else (60_exceptions.md R203, R204). -/
theorem raise_eq (i : Instr) (c : Cause) (addr : Word) (s : State) :
    raise i c addr s = .next (enterFault c (s.pc - 2) (encode i) addr s) := rfl

/-- The first report is kept (10_state.md R26). -/
theorem enterFault_keeps_report (c : Cause) (a op addr : Word) (s : State) (h : s.fault.cause ≠ .none) :
    (enterFault c a op addr s).fault = s.fault := by simp [h]

theorem enterFault_writes_report (c : Cause) (a op addr : Word) (s : State) (h : s.fault.cause = .none) :
    (enterFault c a op addr s).fault = ⟨c, a, op, addr⟩ := by simp [h]

/-- A fault entry for a real cause always leaves a report. -/
theorem enterFault_reports (c : Cause) (a op addr : Word) (s : State) (hc : c ≠ .none) :
    (enterFault c a op addr s).fault.cause ≠ .none := by
  by_cases h : s.fault.cause = .none
  · simpa [h] using hc
  · simp [h]

theorem pcOutOfRange_iff (pc : Word) : pcOutOfRange pc = true ↔ pc.toNat < 0x200 ∨ 4095 < pc.toNat := by
  simp [pcOutOfRange]

theorem skipIf_eq (c : Bool) (s : State) :
    skipIf c s = .next (if c then { s with pc := s.pc + 2 } else s) := rfl

/-- An index above 15 is a fault; any other goes on. -/
theorem withIndex_cases (i : Instr) (c : Cause) (x : Nibble) (s : State) (k : Byte → Result) :
    (15 < (s.getV x).toNat ∧ withIndex i c x s k = raise i c (zextByte (s.getV x)) s) ∨
    ((s.getV x).toNat ≤ 15 ∧ withIndex i c x s k = k (s.getV x)) := by
  unfold withIndex
  by_cases h : 15 < (s.getV x).toNat
  · exact .inl ⟨h, by simp [h]⟩
  · exact .inr ⟨by omega, by simp [h]⟩

/-- A block store either faults with nothing written or writes all its bytes. -/
theorem storeBlock_cases (i : Instr) (bytes : List Byte) (s : State) :
    (bytes ≠ [] ∧ 4096 < s.i.toNat + bytes.length ∧
      storeBlock i bytes s = raise i .memoryOutOfRange (BitVec.ofNat 16 (max s.i.toNat 4096)) s) ∨
    ((bytes = [] ∨ s.i.toNat + bytes.length ≤ 4096) ∧
      storeBlock i bytes s = .next { s with mem := Memory.putBytes s.mem s.i.toNat bytes }) := by
  unfold storeBlock State.effAddr
  cases h : outOfRange (s.i.toNat + 0) bytes.length with
  | some bad =>
    obtain ⟨h1, h2, rfl⟩ := (outOfRange_eq_some _ _ _).mp h
    exact .inl ⟨List.ne_nil_of_length_pos h1, h2, rfl⟩
  | none =>
    refine .inr ⟨?_, rfl⟩
    rcases (outOfRange_eq_none _ _).mp h with h | h
    · exact .inl (List.eq_nil_of_length_eq_zero h)
    · exact .inr h

/-- A block load either faults or goes on with the bytes read. -/
theorem loadBlock_cases (i : Instr) (n : Nat) (s : State) (k : List Byte → Result) :
    (0 < n ∧ 4096 < s.i.toNat + n ∧
      loadBlock i n s k = raise i .memoryOutOfRange (BitVec.ofNat 16 (max s.i.toNat 4096)) s) ∨
    ((n = 0 ∨ s.i.toNat + n ≤ 4096) ∧ loadBlock i n s k = k (Memory.getBytes s.mem s.i.toNat n)) := by
  unfold loadBlock State.effAddr
  cases h : outOfRange (s.i.toNat + 0) n with
  | some bad =>
    obtain ⟨h1, h2, rfl⟩ := (outOfRange_eq_some _ _ _).mp h
    exact .inl ⟨h1, h2, rfl⟩
  | none => exact .inr ⟨(outOfRange_eq_none _ _).mp h, rfl⟩

/-- A pop takes the entry below the top, or stops the model where the array has none. -/
theorem popPC_cases (s : State) :
    (∃ h : (s.sp - 1).toNat < 16,
      popPC s = .next { s with sp := s.sp - 1, pc := s.stack[(s.sp - 1).toNat]'h }) ∨
    (16 ≤ (s.sp - 1).toNat ∧ popPC s = .fault .stackPointerOutOfRange) := by
  unfold popPC
  by_cases h : (s.sp - 1).toNat < 16
  · exact .inl ⟨h, by rw [Vector.getElem?_eq_getElem h]⟩
  · exact .inr ⟨by omega, by rw [Vector.getElem?_eq_none (by omega)]⟩

end Sys2Proof.Machine
end

