-- ==== Sys2Proof/Laws/Step.lean ====
section
/-! SUPPORT. What a CPU tick and a step can answer, said once. -/

namespace Sys2Proof.Machine

/-- The check after a handler: a handler that raised is left alone, a PC out of range is a fault, anything else stands
(60_exceptions.md R205, R206). -/
theorem afterHandler_next {a op : Word} {r : Result} {t : State} (h : afterHandler a op r = .next t) :
    ∃ u, r = .next u ∧
      ((u.run = .halted ∧ t = u) ∨
       (u.run ≠ .halted ∧ pcOutOfRange u.pc = true ∧ t = enterFault .pcOutOfRange a op u.pc u) ∨
       (u.run ≠ .halted ∧ pcOutOfRange u.pc = false ∧ t = u)) := by
  cases r with
  | fault f => simp [afterHandler] at h
  | refused q => simp [afterHandler] at h
  | next u =>
    refine ⟨u, rfl, ?_⟩
    by_cases hh : u.run = .halted
    · simp [afterHandler, hh] at h; exact .inl ⟨hh, h.symm⟩
    · by_cases hp : pcOutOfRange u.pc = true
      · simp [afterHandler, hh, hp] at h; exact .inr (.inl ⟨hh, hp, h.symm⟩)
      · simp [afterHandler, hh, hp] at h; exact .inr (.inr ⟨hh, by simpa using hp, h.symm⟩)

/-- Everything a CPU tick can be (60_exceptions.md R210). -/
theorem cpuTick_cases (s : State) :
    (s.run ≠ .running ∧ cpuTick s = .next s) ∨
    (s.run = .running ∧ pcOutOfRange s.pc = true ∧ cpuTick s = .next (enterFault .pcOutOfRange s.pc 0 s.pc s)) ∨
    (s.run = .running ∧ s.pc = 4095 ∧ cpuTick s = .next (enterFault .memoryOutOfRange s.pc 0 4096 s)) ∨
    (s.run = .running ∧ 0x200 ≤ s.pc.toNat ∧ s.pc.toNat ≤ 4094 ∧
      cpuTick s = afterHandler s.pc (fetchWord s.mem s.pc.toNat)
        (exec (decodeWord (fetchWord s.mem s.pc.toNat)) { s with pc := s.pc + 2 })) := by
  by_cases hr : s.run = .running
  · by_cases hp : pcOutOfRange s.pc = true
    · exact .inr (.inl ⟨hr, hp, by simp [cpuTick, hr, hp]⟩)
    · have hp' := hp
      rw [pcOutOfRange_iff] at hp'
      by_cases h95 : s.pc.toNat = 4095
      · have e : s.pc = 4095 := BitVec.eq_of_toNat_eq h95
        refine .inr (.inr (.inl ⟨hr, e, ?_⟩))
        have : outOfRange s.pc.toNat 2 = some 4096 := (outOfRange_eq_some _ _ _).mpr (by rw [h95]; simp)
        simp [cpuTick, hr, hp, this]
      · have : outOfRange s.pc.toNat 2 = none := (outOfRange_eq_none _ _).mpr (by omega)
        exact .inr (.inr (.inr ⟨hr, by omega, by omega, by simp [cpuTick, hr, hp, this]⟩))
  · exact .inl ⟨hr, by simp [cpuTick, hr]⟩

/-- A step handles the next event. -/
theorem step_eq (s : State) : step s = handleEvent (nextEvent s) (dropEvent s) := rfl

end Sys2Proof.Machine
end

