-- ==== Sys2Proof/Laws/Safety.lean ====
section
/-! SUPPORT. What the shared operations give in the terms of Safety.lean: one lemma per term, cited by the proofs. -/

namespace Sys2Proof.Machine

/-! ### Registers and faults -/

theorem writesReg_setV (s : State) (x : Nibble) (b : Byte) : WritesReg s (s.setV x b) x b :=
  ⟨getV_setV_same s x b, fun _ h => getV_setV_ne s b h, rfl⟩

theorem writesRegAndFlag_setVFlag (s : State) (x : Nibble) (b : Byte) (f : Bool) :
    WritesRegAndFlag s (s.setVFlag x b f) x b (flagByte f) :=
  ⟨fun h => getV_setVFlag_result s b f h, getV_setVFlag_flag s x b f,
    fun _ h h' => getV_setVFlag_other s b f h h', rfl⟩

theorem flagByte_decide (p : Prop) [Decidable p] : flagByte (decide p) = if p then 1 else 0 := by
  by_cases h : p <;> simp [h]

theorem haltsWith_enterFault (c : Cause) (a op addr : Word) (s : State) :
    HaltsWith s (enterFault c a op addr s) ⟨c, a, op, addr⟩ :=
  ⟨rfl, enterFault_writes_report c a op addr s, enterFault_keeps_report c a op addr s⟩

/-! ### The tick -/

theorem checksPC_afterHandler (a op : Word) (r : Result) : ChecksPC a op r (afterHandler a op r) := by
  refine ⟨?_, ?_, ?_⟩
  · rintro t rfl
    refine ⟨fun h => by simp [afterHandler, h], fun h h1 h2 => ?_, fun h h1 => ?_⟩
    · have : pcOutOfRange t.pc = false := by rw [Bool.eq_false_iff, ne_eq, pcOutOfRange_iff]; omega
      simp [afterHandler, h, this]
    · have : pcOutOfRange t.pc = true := (pcOutOfRange_iff _).mpr h1
      exact ⟨_, by simp only [afterHandler, h, this]; rfl, haltsWith_enterFault _ _ _ _ _⟩
  · rintro f rfl; rfl
  · rintro q rfl; rfl

/-- The tick where the fetch succeeds. -/
theorem cpuTick_running (s : State) (hr : s.run = .running) (h1 : 0x200 ≤ s.pc.toNat) (h2 : s.pc.toNat ≤ 4094) :
    cpuTick s = afterHandler s.pc (fetchWord s.mem s.pc.toNat)
        (exec (decodeWord (fetchWord s.mem s.pc.toNat)) { s with pc := s.pc + 2 }) := by
  rcases cpuTick_cases s with h | h | h | h
  · exact absurd hr h.1
  · have := (pcOutOfRange_iff _).mp h.2.1; omega
  · have := congrArg BitVec.toNat h.2.1; simp at this; omega
  · exact h.2.2.2

theorem fetchAddr_range (s : State) : 0x200 ≤ (fetchAddr s).toNat ∧ (fetchAddr s).toNat ≤ 4094 := by
  unfold fetchAddr; split_ifs with h
  · exact h
  · decide

/-! ### Widening -/

theorem zextAddr_toNat (n : Addr12) : (zextAddr n).toNat = n.toNat := by
  have := n.isLt; simp only [zextAddr, BitVec.toNat_setWidth]; omega

theorem zextByte_toNat (b : Byte) : (zextByte b).toNat = b.toNat := by
  have := b.isLt; simp only [zextByte, BitVec.toNat_setWidth]; omega

/-! ### The stack -/

/-- A pop where the stack holds `k + 1` addresses. -/
theorem popPC_of_sp (s : State) (k : Nat) (hk : k < 16) (h : s.sp.toNat = k + 1) :
    popPC s = .next { s with sp := s.sp - 1, pc := s.stack[k] } ∧ (s.sp - 1).toNat = k := by
  have h1 : (s.sp - 1).toNat = k := by
    rw [BitVec.toNat_sub_of_le (by simp [BitVec.le_def]; omega)]; simp [h]
  refine ⟨?_, h1⟩
  rcases popPC_cases s with ⟨h', e⟩ | ⟨h', _⟩
  · rw [e]; simp only [h1]
  · omega

/-! ### Blocks -/

theorem storeBlock_ok (i : Instr) (bytes : List Byte) (s : State) (h : s.i.toNat + bytes.length ≤ 4096) :
    storeBlock i bytes s = .next { s with mem := Memory.putBytes s.mem s.i.toNat bytes } := by
  rcases storeBlock_cases i bytes s with h' | h'
  · omega
  · exact h'.2

theorem storeBlock_bad (i : Instr) (bytes : List Byte) (s : State) (h : 0 < bytes.length)
    (h2 : 4096 < s.i.toNat + bytes.length) (a : Word) (ha : a.toNat = max s.i.toNat 4096) :
    storeBlock i bytes s = raise i .memoryOutOfRange a s := by
  have : BitVec.ofNat 16 (max s.i.toNat 4096) = a := by rw [← ha]; simp
  rcases storeBlock_cases i bytes s with h' | h'
  · rw [← this]; exact h'.2.2
  · rcases h'.1 with e | e
    · simp [e] at h
    · omega

theorem loadBlock_ok (i : Instr) (n : Nat) (s : State) (k : List Byte → Result) (h : n = 0 ∨ s.i.toNat + n ≤ 4096) :
    loadBlock i n s k = k (Memory.getBytes s.mem s.i.toNat n) := by
  rcases loadBlock_cases i n s k with h' | h'
  · omega
  · exact h'.2

theorem loadBlock_bad (i : Instr) (n : Nat) (s : State) (k : List Byte → Result) (h : 0 < n)
    (h2 : 4096 < s.i.toNat + n) (a : Word) (ha : a.toNat = max s.i.toNat 4096) :
    loadBlock i n s k = raise i .memoryOutOfRange a s := by
  have : BitVec.ofNat 16 (max s.i.toNat 4096) = a := by rw [← ha]; simp
  rcases loadBlock_cases i n s k with h' | h'
  · rw [← this]; exact h'.2.2
  · omega

/-! ### Sprites -/

/-- The cells of a sprite are the pixels it hits. -/
theorem mem_spriteCells_iff_hits (s : State) (x y n : Nibble) (c r : Nat) (hc : c < 64) (hr : r < 32) :
    c + r * 64 ∈ spriteCells (s.getV x).toNat (s.getV y).toNat 0 (Memory.getBytes s.mem s.i.toNat n.toNat) ↔
      SpriteHits s x y n c r := by
  rw [mem_spriteCells]
  constructor
  · rintro ⟨row, hrow, col, hcol, hb, e⟩
    rw [getBytes_length] at hrow
    rw [getBytes_getElem] at hb
    refine ⟨row, hrow, col, hcol, hb, ?_⟩
    unfold pixelIndex at e; omega
  · rintro ⟨row, hrow, col, hcol, hb, rfl, rfl⟩
    exact ⟨row, by rwa [getBytes_length], col, hcol, by rw [getBytes_getElem]; exact hb, by simp [pixelIndex]⟩

end Sys2Proof.Machine
end

