-- ==== Sys2Proof/Laws/Exec.lean ====
section
/-! SUPPORT. Everything an instruction can answer, said once over all instructions: a fault of its own, the model's one
stop, or its effect as a plain update of the state. The whole-machine statements are proved from this. -/

namespace Sys2Proof.Machine

/-- The state an instruction leaves where it raises nothing, as one update of the state before. -/
def effect (s : State) : Instr → State
  | .clear => { s with fb := Frame.blank }
  | .ret => { s with sp := s.sp - 1, pc := s.stack[(s.sp - 1).toNat]?.getD 0 }
  | .sys _ => s
  | .jump nnn => { s with pc := zextAddr nnn }
  | .jumpOffset nnn => { s with pc := zextAddr nnn + zextByte (s.getV 0) }
  | .call nnn =>
    { s with pc := zextAddr nnn, sp := s.sp + 1, stack := s.stack.setIfInBounds s.sp.toNat s.pc }
  | .skipEqConst x nn => if s.getV x = nn then { s with pc := s.pc + 2 } else s
  | .skipNeConst x nn => if s.getV x = nn then s else { s with pc := s.pc + 2 }
  | .skipEqVal x y _ => if s.getV x = s.getV y then { s with pc := s.pc + 2 } else s
  | .skipNeVal x y _ => if s.getV x = s.getV y then s else { s with pc := s.pc + 2 }
  | .skipKeyDown x => if keyDown s (s.getV x) then { s with pc := s.pc + 2 } else s
  | .skipKeyUp x => if keyDown s (s.getV x) then s else { s with pc := s.pc + 2 }
  | .loadConst x nn => s.setV x nn
  | .addConst x nn => s.setV x (s.getV x + nn)
  | .loadVal x y => s.setV x (s.getV y)
  | .orVal x y => s.setV x (s.getV x ||| s.getV y)
  | .andVal x y => s.setV x (s.getV x &&& s.getV y)
  | .xorVal x y => s.setV x (s.getV x ^^^ s.getV y)
  | .addVal x y =>
    if addCarry (s.getV x) (s.getV y) then s.setVFlag x (s.getV x + s.getV y) true
    else s.setV x (s.getV x + s.getV y)
  | .subVal x y => s.setVFlag x (s.getV x - s.getV y) (noBorrow (s.getV x) (s.getV y))
  | .subValInverse x y => s.setVFlag x (s.getV y - s.getV x) (noBorrow (s.getV y) (s.getV x))
  | .shiftRight x _ => s.setVFlag x (s.getV x >>> 1) (shiftRightOut (s.getV x))
  | .shiftLeft x _ => s.setVFlag x (s.getV x <<< 1) (shiftLeftOut (s.getV x))
  | .loadIndex nnn => { s with i := zextAddr nnn }
  | .addIndex x => { s with i := s.i + zextByte (s.getV x) }
  | .fontIndex x => { s with i := glyphAddr (s.getV x) }
  | .storeBCD x => { s with mem := Memory.putBytes s.mem s.i.toNat (bcdDigits (s.getV x)) }
  | .regDump x => { s with mem := Memory.putBytes s.mem s.i.toNat (s.regsUpTo x) }
  | .regLoad x => { s with v := loadRegs s.v x (Memory.getBytes s.mem s.i.toNat (x.toNat + 1)) }
  | .random x nn => { s.setV x (Config.randomDraw s.draws &&& nn) with draws := s.draws + 1 }
  | .drawSprite x y n =>
    let cells := spriteCells (s.getV x).toNat (s.getV y).toNat 0 (Memory.getBytes s.mem s.i.toNat n.toNat)
    { s.setV regF (flagByte (drawCells s.fb false cells).2) with fb := (drawCells s.fb false cells).1, draw := true }
  | .getDelay x => s.setV x s.dt
  | .waitForNextKeyPress x => { s with waitReg := x, run := .waitingForKey }
  | .setDelay x => { s with dt := s.getV x }
  | .setSound x => { s with st := s.getV x }
  | .nop _ => s

/-- The causes a handler can raise (60_exceptions.md R200: 2 to 7). -/
def Cause.ofHandler (c : Cause) : Prop := c ≠ .none ∧ c ≠ .pcOutOfRange ∧ c ≠ .stopped

/-- What an instruction's effect needs of the state: Call and Return their depth, a block its range, a key or glyph its
index, Nop the lenient policy. -/
def roomFor (s : State) : Instr → Prop
  | .ret => s.sp ≠ 0 ∧ (s.sp - 1).toNat < 16
  | .call _ => s.sp.toNat < 15
  | .storeBCD x => s.i.toNat + (bcdDigits (s.getV x)).length ≤ 4096
  | .regDump x => s.i.toNat + (s.regsUpTo x).length ≤ 4096
  | .regLoad x => s.i.toNat + (x.toNat + 1) ≤ 4096
  | .drawSprite _ _ n => n.toNat = 0 ∨ s.i.toNat + n.toNat ≤ 4096
  | .skipKeyDown x | .skipKeyUp x | .fontIndex x => (s.getV x).toNat ≤ 15
  | .nop _ => s.strict = false
  | _ => True

theorem withIndex_next (i : Instr) (c : Cause) (x : Nibble) (s t : State) (k : Byte → Result)
    (hk : k (s.getV x) = .next t) :
    (∃ addr, withIndex i c x s k = raise i c addr s) ∨ ((s.getV x).toNat ≤ 15 ∧ withIndex i c x s k = .next t) := by
  rcases withIndex_cases i c x s k with h | h
  · exact .inl ⟨_, h.2⟩
  · exact .inr ⟨h.1, h.2.trans hk⟩

/-- An instruction raises a fault of its own, or is the Return that no run reaches, or has its effect. -/
theorem exec_cases (i : Instr) (s : State) :
    (∃ c addr, Cause.ofHandler c ∧ exec i s = raise i c addr s) ∨
    (i = .ret ∧ exec i s = .fault .stackPointerOutOfRange) ∨
    (roomFor s i ∧ exec i s = .next (effect s i)) := by
  have mem : Cause.ofHandler .memoryOutOfRange := ⟨by decide, by decide, by decide⟩
  cases i
  case ret =>
    by_cases h : s.sp = 0
    · exact .inl ⟨.stackUnderflow, 0, ⟨by decide, by decide, by decide⟩, by simp [exec, execReturn, h]⟩
    · have e : exec .ret s = popPC s := by simp only [exec, execReturn, if_neg h]
      rcases popPC_cases s with ⟨h', e'⟩ | ⟨h', e'⟩
      · exact .inr (.inr ⟨⟨h, h'⟩, by rw [e, e']; simp only [effect, Vector.getElem?_eq_getElem h', Option.getD_some]⟩)
      · exact .inr (.inl ⟨rfl, e.trans e'⟩)
  case call nnn =>
    by_cases h : 15 ≤ s.sp.toNat
    · exact .inl ⟨.stackOverflow, 0, ⟨by decide, by decide, by decide⟩, by simp only [exec, execCall, h, if_true]⟩
    · exact .inr (.inr ⟨by simp only [roomFor]; omega, by simp only [exec, execCall, h, if_false]; rfl⟩)
  case nop op =>
    by_cases h : s.strict = true
    · exact .inl ⟨.illegalInstruction, 0, ⟨by decide, by decide, by decide⟩, by simp [exec, execNop, h]⟩
    · exact .inr (.inr ⟨by simpa [roomFor] using h, by simp [exec, execNop, h, effect]⟩)
  case skipEqConst x nn =>
    refine .inr (.inr ⟨trivial, ?_⟩)
    by_cases h : s.getV x = nn <;> simp [exec, execSkipEqConst, skipIf, effect, h]
  case skipNeConst x nn =>
    refine .inr (.inr ⟨trivial, ?_⟩)
    by_cases h : s.getV x = nn <;> simp [exec, execSkipNeConst, skipIf, effect, h]
  case skipEqVal x y low =>
    refine .inr (.inr ⟨trivial, ?_⟩)
    by_cases h : s.getV x = s.getV y <;> simp [exec, execSkipEqVal, skipIf, effect, h]
  case skipNeVal x y low =>
    refine .inr (.inr ⟨trivial, ?_⟩)
    by_cases h : s.getV x = s.getV y <;> simp [exec, execSkipNeVal, skipIf, effect, h]
  case skipKeyDown x =>
    rcases withIndex_next (.skipKeyDown x) .keyIndexOutOfRange x s
      (effect s (.skipKeyDown x)) (fun k => skipIf (keyDown s k) s) (by simp [skipIf, effect]) with ⟨a, h⟩ | h
    · exact .inl ⟨_, a, ⟨by decide, by decide, by decide⟩, h⟩
    · exact .inr (.inr h)
  case skipKeyUp x =>
    rcases withIndex_next (.skipKeyUp x) .keyIndexOutOfRange x s
      (effect s (.skipKeyUp x)) (fun k => skipIf (!keyDown s k) s)
      (by cases h : keyDown s (s.getV x) <;> simp [skipIf, effect, h]) with ⟨a, h⟩ | h
    · exact .inl ⟨_, a, ⟨by decide, by decide, by decide⟩, h⟩
    · exact .inr (.inr h)
  case fontIndex x =>
    rcases withIndex_next (.fontIndex x) .fontIndexOutOfRange x s
      (effect s (.fontIndex x)) (fun d => .next { s with i := glyphAddr d }) rfl with ⟨a, h⟩ | h
    · exact .inl ⟨_, a, ⟨by decide, by decide, by decide⟩, h⟩
    · exact .inr (.inr h)
  case storeBCD x =>
    rcases storeBlock_cases (.storeBCD x) (bcdDigits (s.getV x)) s with h | h
    · exact .inl ⟨_, _, mem, h.2.2⟩
    · exact .inr (.inr ⟨h.1.resolve_left (by simp [bcdDigits]), h.2⟩)
  case regDump x =>
    rcases storeBlock_cases (.regDump x) (s.regsUpTo x) s with h | h
    · exact .inl ⟨_, _, mem, h.2.2⟩
    · refine .inr (.inr ⟨h.1.resolve_left fun e => ?_, h.2⟩)
      have := regsUpTo_length s x; rw [e] at this; simp at this
  case regLoad x =>
    rcases loadBlock_cases (.regLoad x) (x.toNat + 1) s
      (fun bytes => .next { s with v := loadRegs s.v x bytes }) with h | h
    · exact .inl ⟨_, _, mem, h.2.2⟩
    · exact .inr (.inr ⟨h.1.resolve_left (by omega), h.2⟩)
  case drawSprite x y n =>
    rcases loadBlock_cases (.drawSprite x y n) n.toNat s (fun bytes =>
      let cells := spriteCells (s.getV x).toNat (s.getV y).toNat 0 bytes
      let drawn := drawCells s.fb false cells
      .next { s.setV regF (flagByte drawn.2) with fb := drawn.1, draw := true }) with h | h
    · exact .inl ⟨_, _, mem, h.2.2⟩
    · exact .inr (.inr h)
  case addVal x y =>
    refine .inr (.inr ⟨trivial, ?_⟩)
    by_cases h : addCarry (s.getV x) (s.getV y) = true <;> simp [exec, execAddVal, effect, h]
  all_goals exact .inr (.inr ⟨trivial, rfl⟩)

end Sys2Proof.Machine
end

