-- ==== Sys2Proof/Laws/PerInstr.lean ====
section
/-! SUPPORT. For every constructor: the words it encodes to, for all its operands, are covered by its row of the
table (30_encoding.md R64, R65). -/

namespace Sys2Proof.Laws.EncodesItsRow

/-- Some row of the table with the instruction's mnemonic covers the instruction's word. -/
def Statement (i : Instr) : Prop := ∃ r ∈ table, r.mnemonic = i.mnemonic ∧ r.covers (encode i) = true

/-- A word is covered by a row when its bits under the row's mask are the row's pattern. -/
theorem covers_of_bits {s : String} {p mask op : Word}
    (h : ∀ k < 16, (op.getLsbD k && mask.getLsbD k) = p.getLsbD k) : Row.covers ⟨s, p, mask⟩ op = true := by
  simp only [Row.covers, decide_eq_true_eq]
  exact BitVec.eq_of_getLsbD_eq fun k hk => by rw [BitVec.getLsbD_and, h k hk]

theorem covers_ADDR (s : String) (f : Nibble) (nnn : Addr12) {p : Word} (hp : wordADDR f 0 = p) :
    Row.covers ⟨s, p, 0xF000⟩ (wordADDR f nnn) = true := by
  subst hp
  exact covers_of_bits fun k hk => by rw [getLsbD_wordADDR, getLsbD_wordADDR]; interval_cases k <;> simp

theorem covers_XNN (s : String) (f x : Nibble) (nn : Byte) {p : Word} (hp : wordXNN f 0 0 = p) :
    Row.covers ⟨s, p, 0xF000⟩ (wordXNN f x nn) = true := by
  subst hp
  exact covers_of_bits fun k hk => by rw [getLsbD_wordXNN, getLsbD_wordXNN]; interval_cases k <;> simp

theorem covers_XSS (s : String) (f x : Nibble) (ss : Byte) {p : Word} (hp : wordXNN f 0 ss = p) :
    Row.covers ⟨s, p, 0xF0FF⟩ (wordXNN f x ss) = true := by
  subst hp
  exact covers_of_bits fun k hk => by rw [getLsbD_wordXNN, getLsbD_wordXNN]; interval_cases k <;> simp

theorem covers_XY (s : String) (f x y n : Nibble) {p : Word} (hp : wordXYN f 0 0 0 = p) :
    Row.covers ⟨s, p, 0xF000⟩ (wordXYN f x y n) = true := by
  subst hp
  exact covers_of_bits fun k hk => by rw [getLsbD_wordXYN, getLsbD_wordXYN]; interval_cases k <;> simp

theorem covers_XYS (s : String) (f x y n : Nibble) {p : Word} (hp : wordXYN f 0 0 n = p) :
    Row.covers ⟨s, p, 0xF00F⟩ (wordXYN f x y n) = true := by
  subst hp
  exact covers_of_bits fun k hk => by rw [getLsbD_wordXYN, getLsbD_wordXYN]; interval_cases k <;> simp

theorem clear : Statement (.clear) :=
  ⟨⟨"Clear", 0x00E0, 0xFFFF⟩, by decide, rfl, by decide⟩

theorem ret : Statement (.ret) :=
  ⟨⟨"Return", 0x00EE, 0xFFFF⟩, by decide, rfl, by decide⟩

theorem sys (nnn : Addr12) : Statement (.sys nnn) :=
  ⟨⟨"Sys", 0x0000, 0xF000⟩, by decide, rfl, covers_ADDR _ 0x0 nnn rfl⟩

theorem jump (nnn : Addr12) : Statement (.jump nnn) :=
  ⟨⟨"Jump", 0x1000, 0xF000⟩, by decide, rfl, covers_ADDR _ 0x1 nnn rfl⟩

theorem call (nnn : Addr12) : Statement (.call nnn) :=
  ⟨⟨"Call", 0x2000, 0xF000⟩, by decide, rfl, covers_ADDR _ 0x2 nnn rfl⟩

theorem skipEqConst (x : Nibble) (nn : Byte) : Statement (.skipEqConst x nn) :=
  ⟨⟨"SkipEqConst", 0x3000, 0xF000⟩, by decide, rfl, covers_XNN _ 0x3 x nn rfl⟩

theorem skipNeConst (x : Nibble) (nn : Byte) : Statement (.skipNeConst x nn) :=
  ⟨⟨"SkipNeConst", 0x4000, 0xF000⟩, by decide, rfl, covers_XNN _ 0x4 x nn rfl⟩

theorem skipEqVal (x y low : Nibble) : Statement (.skipEqVal x y low) :=
  ⟨⟨"SkipEqVal", 0x5000, 0xF000⟩, by decide, rfl, covers_XY _ 0x5 x y low rfl⟩

theorem loadConst (x : Nibble) (nn : Byte) : Statement (.loadConst x nn) :=
  ⟨⟨"LoadConst", 0x6000, 0xF000⟩, by decide, rfl, covers_XNN _ 0x6 x nn rfl⟩

theorem addConst (x : Nibble) (nn : Byte) : Statement (.addConst x nn) :=
  ⟨⟨"AddConst", 0x7000, 0xF000⟩, by decide, rfl, covers_XNN _ 0x7 x nn rfl⟩

theorem loadVal (x y : Nibble) : Statement (.loadVal x y) :=
  ⟨⟨"LoadVal", 0x8000, 0xF00F⟩, by decide, rfl, covers_XYS _ 0x8 x y 0x0 rfl⟩

theorem orVal (x y : Nibble) : Statement (.orVal x y) :=
  ⟨⟨"OrVal", 0x8001, 0xF00F⟩, by decide, rfl, covers_XYS _ 0x8 x y 0x1 rfl⟩

theorem andVal (x y : Nibble) : Statement (.andVal x y) :=
  ⟨⟨"AndVal", 0x8002, 0xF00F⟩, by decide, rfl, covers_XYS _ 0x8 x y 0x2 rfl⟩

theorem xorVal (x y : Nibble) : Statement (.xorVal x y) :=
  ⟨⟨"XorVal", 0x8003, 0xF00F⟩, by decide, rfl, covers_XYS _ 0x8 x y 0x3 rfl⟩

theorem addVal (x y : Nibble) : Statement (.addVal x y) :=
  ⟨⟨"AddVal", 0x8004, 0xF00F⟩, by decide, rfl, covers_XYS _ 0x8 x y 0x4 rfl⟩

theorem subVal (x y : Nibble) : Statement (.subVal x y) :=
  ⟨⟨"SubVal", 0x8005, 0xF00F⟩, by decide, rfl, covers_XYS _ 0x8 x y 0x5 rfl⟩

theorem shiftRight (x y : Nibble) : Statement (.shiftRight x y) :=
  ⟨⟨"ShiftRight", 0x8006, 0xF00F⟩, by decide, rfl, covers_XYS _ 0x8 x y 0x6 rfl⟩

theorem subValInverse (x y : Nibble) : Statement (.subValInverse x y) :=
  ⟨⟨"SubValInverse", 0x8007, 0xF00F⟩, by decide, rfl, covers_XYS _ 0x8 x y 0x7 rfl⟩

theorem shiftLeft (x y : Nibble) : Statement (.shiftLeft x y) :=
  ⟨⟨"ShiftLeft", 0x800E, 0xF00F⟩, by decide, rfl, covers_XYS _ 0x8 x y 0xE rfl⟩

theorem skipNeVal (x y low : Nibble) : Statement (.skipNeVal x y low) :=
  ⟨⟨"SkipNeVal", 0x9000, 0xF000⟩, by decide, rfl, covers_XY _ 0x9 x y low rfl⟩

theorem loadIndex (nnn : Addr12) : Statement (.loadIndex nnn) :=
  ⟨⟨"LoadIndex", 0xA000, 0xF000⟩, by decide, rfl, covers_ADDR _ 0xA nnn rfl⟩

theorem jumpOffset (nnn : Addr12) : Statement (.jumpOffset nnn) :=
  ⟨⟨"JumpOffset", 0xB000, 0xF000⟩, by decide, rfl, covers_ADDR _ 0xB nnn rfl⟩

theorem random (x : Nibble) (nn : Byte) : Statement (.random x nn) :=
  ⟨⟨"Random", 0xC000, 0xF000⟩, by decide, rfl, covers_XNN _ 0xC x nn rfl⟩

theorem drawSprite (x y n : Nibble) : Statement (.drawSprite x y n) :=
  ⟨⟨"DrawSprite", 0xD000, 0xF000⟩, by decide, rfl, covers_XY _ 0xD x y n rfl⟩

theorem skipKeyDown (x : Nibble) : Statement (.skipKeyDown x) :=
  ⟨⟨"SkipKeyDown", 0xE09E, 0xF0FF⟩, by decide, rfl, covers_XSS _ 0xE x 0x9E rfl⟩

theorem skipKeyUp (x : Nibble) : Statement (.skipKeyUp x) :=
  ⟨⟨"SkipKeyUp", 0xE0A1, 0xF0FF⟩, by decide, rfl, covers_XSS _ 0xE x 0xA1 rfl⟩

theorem getDelay (x : Nibble) : Statement (.getDelay x) :=
  ⟨⟨"GetDelay", 0xF007, 0xF0FF⟩, by decide, rfl, covers_XSS _ 0xF x 0x07 rfl⟩

theorem waitForNextKeyPress (x : Nibble) : Statement (.waitForNextKeyPress x) :=
  ⟨⟨"WaitForNextKeyPress", 0xF00A, 0xF0FF⟩, by decide, rfl, covers_XSS _ 0xF x 0x0A rfl⟩

theorem setDelay (x : Nibble) : Statement (.setDelay x) :=
  ⟨⟨"SetDelay", 0xF015, 0xF0FF⟩, by decide, rfl, covers_XSS _ 0xF x 0x15 rfl⟩

theorem setSound (x : Nibble) : Statement (.setSound x) :=
  ⟨⟨"SetSound", 0xF018, 0xF0FF⟩, by decide, rfl, covers_XSS _ 0xF x 0x18 rfl⟩

theorem addIndex (x : Nibble) : Statement (.addIndex x) :=
  ⟨⟨"AddIndex", 0xF01E, 0xF0FF⟩, by decide, rfl, covers_XSS _ 0xF x 0x1E rfl⟩

theorem fontIndex (x : Nibble) : Statement (.fontIndex x) :=
  ⟨⟨"FontIndex", 0xF029, 0xF0FF⟩, by decide, rfl, covers_XSS _ 0xF x 0x29 rfl⟩

theorem storeBCD (x : Nibble) : Statement (.storeBCD x) :=
  ⟨⟨"StoreBCD", 0xF033, 0xF0FF⟩, by decide, rfl, covers_XSS _ 0xF x 0x33 rfl⟩

theorem regDump (x : Nibble) : Statement (.regDump x) :=
  ⟨⟨"RegDump", 0xF055, 0xF0FF⟩, by decide, rfl, covers_XSS _ 0xF x 0x55 rfl⟩

theorem regLoad (x : Nibble) : Statement (.regLoad x) :=
  ⟨⟨"RegLoad", 0xF065, 0xF0FF⟩, by decide, rfl, covers_XSS _ 0xF x 0x65 rfl⟩

theorem nop (op : Word) : Statement (.nop op) :=
  ⟨⟨"Nop", 0x0000, 0x0000⟩, by decide, rfl, by simp [Row.covers, encode]⟩

end Sys2Proof.Laws.EncodesItsRow
end

