-- ==== Sys2Proof/Tests/Slice0.lean ====
section
/-! SUPPORT. The model's own tests. The expected values are those of spec/95_test_vectors.md (the TV and E numbers in
the comments), never the model's answers; the words are written out from the formats of 30_encoding.md R64, R65. After
them, for every statement with hypotheses, concrete states and operands that meet them. -/

namespace Sys2Proof.Tests

open Sys2Proof Sys2Proof.Machine

/-! ### Well-formedness: an ill-formed term for each check is refused -/

/-- 00E0 and 00EE are not Sys (R65). -/
theorem test_wf_sys : (Instr.sys 0x0E0).wf = false ∧ (Instr.sys 0x0EE).wf = false ∧ (Instr.sys 0x0E1).wf = true := by
  decide

/-- No recognised opcode is a Nop (R67): families 0, 1, 5, 9, D. -/
theorem test_wf_nop_whole_families :
    (Instr.nop 0x0000).wf = false ∧ (Instr.nop 0x1234).wf = false ∧ (Instr.nop 0x5127).wf = false ∧
    (Instr.nop 0x9123).wf = false ∧ (Instr.nop 0xD010).wf = false := by decide

/-- The same in families 8, E, F. -/
theorem test_wf_nop_family8 :
    (Instr.nop 0x8120).wf = false ∧ (Instr.nop 0x8127).wf = false ∧ (Instr.nop 0x812E).wf = false ∧
    (Instr.nop 0x8128).wf = true ∧ (Instr.nop 0x812F).wf = true := by decide

theorem test_wf_nop_familyE :
    (Instr.nop 0xE19E).wf = false ∧ (Instr.nop 0xE1A1).wf = false ∧ (Instr.nop 0xE19F).wf = true := by decide

theorem test_wf_nop_familyF :
    (Instr.nop 0xF107).wf = false ∧ (Instr.nop 0xF10A).wf = false ∧ (Instr.nop 0xF115).wf = false ∧
    (Instr.nop 0xF118).wf = false ∧ (Instr.nop 0xF11E).wf = false ∧ (Instr.nop 0xF129).wf = false ∧
    (Instr.nop 0xF133).wf = false ∧ (Instr.nop 0xF155).wf = false ∧ (Instr.nop 0xF165).wf = false ∧
    (Instr.nop 0xF175).wf = true := by decide

/-! ### Decoding: every constructor, by a word written out from its format -/

/-- Formats LIT and ADDR, bit by bit: family, then NNN. -/
theorem test_decode_LIT_ADDR :
    decodeWord (0b0000#4 ++ 0b000011100000#12) = .clear ∧ decodeWord (0b0000#4 ++ 0b000011101110#12) = .ret ∧
    decodeWord (0b0000#4 ++ 0b000100100011#12) = .sys 0x123 ∧ decodeWord (0b0001#4 ++ 0b001000000100#12) = .jump 0x204 ∧
    decodeWord (0b0010#4 ++ 0b101010111100#12) = .call 0xABC ∧
    decodeWord (0b1010#4 ++ 0b111111111111#12) = .loadIndex 0xFFF ∧
    decodeWord (0b1011#4 ++ 0b000111110000#12) = .jumpOffset 0x1F0 := by decide

/-- Format XNN, bit by bit: family, X, NN. -/
theorem test_decode_XNN :
    decodeWord (0b0011#4 ++ 0b1010#4 ++ 0b11111111#8) = .skipEqConst 0xA 0xFF ∧
    decodeWord (0b0100#4 ++ 0b0011#4 ++ 0b00010001#8) = .skipNeConst 3 0x11 ∧
    decodeWord (0b0110#4 ++ 0b1111#4 ++ 0b10101011#8) = .loadConst 0xF 0xAB ∧
    decodeWord (0b0111#4 ++ 0b0000#4 ++ 0b00000011#8) = .addConst 0 0x03 ∧
    decodeWord (0b1100#4 ++ 0b0011#4 ++ 0b00001111#8) = .random 3 0x0F := by decide

/-- Formats XY, XYN and XYS, bit by bit: family, X, Y, low nibble. -/
theorem test_decode_XY_XYN :
    decodeWord (0b0101#4 ++ 0b1010#4 ++ 0b1011#4 ++ 0b0111#4) = .skipEqVal 0xA 0xB 7 ∧
    decodeWord (0b1001#4 ++ 0b0001#4 ++ 0b0010#4 ++ 0b0101#4) = .skipNeVal 1 2 5 ∧
    decodeWord (0b1101#4 ++ 0b1111#4 ++ 0b0001#4 ++ 0b1110#4) = .drawSprite 0xF 1 0xE := by decide

theorem test_decode_XYS :
    decodeWord (0b1000#4 ++ 0b1010#4 ++ 0b1011#4 ++ 0b0000#4) = .loadVal 0xA 0xB ∧
    decodeWord 0x8AB1 = .orVal 0xA 0xB ∧ decodeWord 0x8AB2 = .andVal 0xA 0xB ∧ decodeWord 0x8AB3 = .xorVal 0xA 0xB ∧
    decodeWord 0x8AB4 = .addVal 0xA 0xB ∧ decodeWord 0x8AB5 = .subVal 0xA 0xB ∧ decodeWord 0x8AB6 = .shiftRight 0xA 0xB ∧
    decodeWord 0x8AB7 = .subValInverse 0xA 0xB ∧ decodeWord 0x8ABE = .shiftLeft 0xA 0xB := by decide

theorem test_decode_XSS :
    decodeWord (0b1110#4 ++ 0b0001#4 ++ 0b10011110#8) = .skipKeyDown 1 ∧
    decodeWord (0b1110#4 ++ 0b0001#4 ++ 0b10100001#8) = .skipKeyUp 1 ∧
    decodeWord (0b1111#4 ++ 0b0011#4 ++ 0b00000111#8) = .getDelay 3 ∧ decodeWord 0xF30A = .waitForNextKeyPress 3 ∧
    decodeWord 0xF315 = .setDelay 3 ∧ decodeWord 0xF318 = .setSound 3 ∧ decodeWord 0xF31E = .addIndex 3 ∧
    decodeWord 0xF329 = .fontIndex 3 ∧ decodeWord 0xF333 = .storeBCD 3 ∧ decodeWord 0xF355 = .regDump 3 ∧
    decodeWord 0xF365 = .regLoad 3 := by decide

/-- The catch-all (95_test_vectors.md, spot checks). -/
theorem test_decode_nop :
    decodeWord 0x8AB8 = .nop 0x8AB8 ∧ decodeWord 0x8ABF = .nop 0x8ABF ∧ decodeWord 0xE19F = .nop 0xE19F ∧
    decodeWord 0xF175 = .nop 0xF175 ∧ decodeWord 0xF0FF = .nop 0xF0FF ∧ decodeWord 0xFFFF = .nop 0xFFFF := by decide

/-- Bytes: the byte at the lower address is the high byte; a missing byte is refused (20_memory.md R44, 30_encoding.md R60). -/
theorem test_decode_bytes :
    decode [0x60, 0x05, 0x70] = .ok (.loadConst 0 5, [0x70]) ∧ decode [0x60] = .error .truncated ∧
    decode [] = .error .truncated ∧ decodeTableWord 16 0x6005 = some (.loadConst 0 5) := ⟨rfl, rfl, rfl, by decide⟩

theorem test_encode_bytes : encodeBytes (.drawSprite 1 2 5) = [0xD1, 0x25] ∧ encodeBytes .clear = [0x00, 0xE0] := by decide

/-! ### One tick of each instruction -/

/-- Reset with PC at an address. -/
def at_ (a : Word) : State := { State.reset with pc := a }

/-- Bytes placed in memory. -/
def poke (s : State) (a : Nat) (bytes : List Byte) : State := { s with mem := Memory.putBytes s.mem a bytes }

/-- Cells lit in the framebuffer. -/
def lit (s : State) (cells : List Nat) : State := { s with fb := cells.foldl Frame.flip s.fb }

/-- The state after one step that runs a word, as the host places it. -/
def tick (w : Nat) (s : State) : Option State :=
  match step (s.withFetchWord 16 w) with
  | .next t => some t
  | .fault _ => none
  | .refused _ => none

/-- PC, RUN and FAULT. -/
def stop (t : State) : Word × RunState × FaultReport := (t.pc, t.run, t.fault)

/-- TV2. -/
theorem test_sys : (tick 0x0123 (lit (at_ 0x200) [0, 5])).map (fun t => (t.pc, pixel t 5 0)) = some (0x202, true) := by
  decide

/-- TV4. -/
theorem test_sys_end : (tick 0x0FFF (at_ 0xFFE)).map stop =
    some (0x1000, .halted, ⟨.pcOutOfRange, 0xFFE, 0x0FFF, 0x1000⟩) := by decide

/-- TV5. -/
theorem test_jump : (tick 0x1204 (at_ 0x20A)).map (fun t => t.pc) = some 0x204 := by decide

/-- TV7. -/
theorem test_jump_low : (tick 0x11FF (at_ 0x200)).map stop =
    some (0x1FF, .halted, ⟨.pcOutOfRange, 0x200, 0x11FF, 0x1FF⟩) := by decide

/-- TV10. -/
theorem test_call : (tick 0x2300 (at_ 0x200)).map (fun t => (t.pc, t.sp, t.stack[0])) = some (0x300, 1, 0x202) := by
  decide

/-- TV12. -/
theorem test_call_overflow : (tick 0x2300 { at_ 0x200 with sp := 15 }).map stop =
    some (0x202, .halted, ⟨.stackOverflow, 0x200, 0x2300, 0⟩) := by decide

/-- TV14. -/
theorem test_return : (tick 0x00EE { at_ 0x300 with sp := 1, stack := State.reset.stack.set 0 0x202 }).map
    (fun t => (t.pc, t.sp, t.stack[0])) = some (0x202, 0, 0x202) := by decide

/-- TV15. -/
theorem test_return_underflow : (tick 0x00EE (at_ 0x200)).map stop =
    some (0x202, .halted, ⟨.stackUnderflow, 0x200, 0x00EE, 0⟩) := by decide

/-- TV17. -/
theorem test_jumpOffset : (tick 0xB300 ((at_ 0x200).setV 0 0x10)).map (fun t => t.pc) = some 0x310 := by decide

/-- TV18. -/
theorem test_jumpOffset_no_wrap : (tick 0xBFFF ((at_ 0x200).setV 0 1)).map stop =
    some (0x1000, .halted, ⟨.pcOutOfRange, 0x200, 0xBFFF, 0x1000⟩) := by decide

/-- TV24. -/
theorem test_nop : (tick 0xFF75 (at_ 0x200)).map stop = some (0x202, .running, ⟨.none, 0, 0, 0⟩) := by decide

/-- TV25. -/
theorem test_nop_strict : (tick 0x812F { at_ 0x200 with strict := true }).map stop =
    some (0x202, .halted, ⟨.illegalInstruction, 0x200, 0x812F, 0⟩) := by decide

/-- TV29, TV30. -/
theorem test_skipEqConst : (tick 0x3000 (at_ 0x208)).map (fun t => t.pc) = some 0x20C ∧
    (tick 0x3001 (at_ 0x208)).map (fun t => t.pc) = some 0x20A := by decide

/-- TV31. -/
theorem test_skipEqConst_end : (tick 0x3AFF ((at_ 0xFFC).setV 0xA 0xFF)).map stop =
    some (0x1000, .halted, ⟨.pcOutOfRange, 0xFFC, 0x3AFF, 0x1000⟩) := by decide

/-- TV33, TV34. -/
theorem test_skipNeConst : (tick 0x4311 ((at_ 0x300).setV 3 0x10)).map (fun t => t.pc) = some 0x304 ∧
    (tick 0x4310 ((at_ 0x300).setV 3 0x10)).map (fun t => t.pc) = some 0x302 := by decide

/-- TV36, TV37. -/
theorem test_skipEqVal : (tick 0x5120 (((at_ 0x200).setV 1 0x7F).setV 2 0x7E)).map (fun t => t.pc) = some 0x202 ∧
    (tick 0x533F ((at_ 0x200).setV 3 0x42)).map (fun t => t.pc) = some 0x204 := by decide

/-- TV39, TV40. -/
theorem test_skipNeVal : (tick 0x9120 (((at_ 0x200).setV 1 2).setV 2 2)).map (fun t => t.pc) = some 0x202 ∧
    (tick 0x9125 (((at_ 0x200).setV 1 1).setV 2 2)).map (fun t => t.pc) = some 0x204 := by decide

/-- Key `k` held down. -/
def held (s : State) (k : Nat) : State := { s with key := s.key.setIfInBounds k true }

/-- TV41, TV42. -/
theorem test_skipKeyDown : (tick 0xE59E (held ((at_ 0x200).setV 5 0x0A) 10)).map (fun t => t.pc) = some 0x204 ∧
    (tick 0xE59E ((at_ 0x200).setV 5 0x0A)).map (fun t => t.pc) = some 0x202 := by decide

/-- TV43. -/
theorem test_skipKeyDown_index : (tick 0xE59E (held ((at_ 0x200).setV 5 0x10) 0)).map stop =
    some (0x202, .halted, ⟨.keyIndexOutOfRange, 0x200, 0xE59E, 0x0010⟩) := by decide

/-- TV44, TV45. -/
theorem test_skipKeyUp : (tick 0xE5A1 ((at_ 0x200).setV 5 0x0A)).map (fun t => t.pc) = some 0x204 ∧
    (tick 0xE5A1 (held ((at_ 0x200).setV 5 0x0A) 10)).map (fun t => t.pc) = some 0x202 := by decide

/-- TV46. -/
theorem test_skipKeyUp_index : (tick 0xE5A1 ((at_ 0x200).setV 5 0xFF)).map stop =
    some (0x202, .halted, ⟨.keyIndexOutOfRange, 0x200, 0xE5A1, 0x00FF⟩) := by decide

/-- V1, V2, VF set. -/
def regs (v1 v2 vf : Byte) : State := (((at_ 0x200).setV 1 v1).setV 2 v2).setV regF vf

/-- V1 and VF read. -/
def v1f (t : State) : Byte × Byte := (t.getV 1, t.getV regF)

/-- TV47, TV48. -/
theorem test_loadConst : (tick 0x6005 (at_ 0x200)).map (fun t => t.getV 0) = some 5 ∧
    (tick 0x6FAB (at_ 0x200)).map (fun t => t.getV regF) = some 0xAB := by decide

/-- TV50 (in V1), TV52. -/
theorem test_addConst : (tick 0x7101 (regs 0xFF 0 0)).map v1f = some (0, 0) ∧
    (tick 0x7F02 (regs 0 0 0xFF)).map (fun t => t.getV regF) = some 1 := by decide

/-- TV53. -/
theorem test_loadVal : (tick 0x8120 (regs 1 0x9C 7)).map (fun t => (v1f t, t.getV 2)) = some ((0x9C, 7), 0x9C) := by decide

/-- TV54. -/
theorem test_orVal : (tick 0x8121 (regs 0xF0 0x0F 1)).map v1f = some (0xFF, 1) := by decide

/-- TV55. -/
theorem test_andVal : (tick 0x8122 (regs 0xF0 0x3C 1)).map v1f = some (0x30, 1) := by decide

/-- TV56. -/
theorem test_xorVal : (tick 0x8123 (regs 0xF0 0x3C 0)).map v1f = some (0xCC, 0) := by decide

/-- TV58, TV60. -/
theorem test_addVal : (tick 0x8124 (regs 0xF0 0x20 0)).map v1f = some (0x10, 1) ∧
    (tick 0x8124 (regs 0x10 0x20 1)).map v1f = some (0x30, 1) := by decide

/-- TV64, TV65: X = F. -/
theorem test_addVal_F : (tick 0x8F14 (regs 0x20 0 0xF0)).map (fun t => t.getV regF) = some 1 ∧
    (tick 0x8F14 (regs 0x20 0 0x10)).map (fun t => t.getV regF) = some 0x30 := by decide

/-- TV68, TV69. -/
theorem test_subVal : (tick 0x8125 (regs 0x10 0x30 1)).map v1f = some (0xE0, 0) ∧
    (tick 0x8125 (regs 0x42 0x42 0)).map v1f = some (0, 1) := by decide

/-- TV71: X = F. -/
theorem test_subVal_F : (tick 0x8F15 (regs 3 0 5)).map (fun t => t.getV regF) = some 1 := by decide

/-- TV72, TV73. -/
theorem test_subValInverse : (tick 0x8127 (regs 0x10 0x30 0)).map v1f = some (0x20, 1) ∧
    (tick 0x8127 (regs 0x30 0x10 1)).map v1f = some (0xE0, 0) := by decide

/-- TV75, TV76. -/
theorem test_shiftRight : (tick 0x8126 (regs 3 0xFF 0)).map v1f = some (1, 1) ∧
    (tick 0x8126 (regs 2 0 1)).map v1f = some (1, 0) := by decide

/-- TV78, TV79. -/
theorem test_shiftLeft : (tick 0x812E (regs 0xC0 1 0)).map v1f = some (0x80, 1) ∧
    (tick 0x812E (regs 0x40 0 1)).map v1f = some (0x80, 0) := by decide

/-- TV82. -/
theorem test_loadIndex : (tick 0xAFFF (at_ 0x200)).map (fun t => t.i) = some 0xFFF := by decide

/-- TV84, TV85. -/
theorem test_addIndex : (tick 0xF01E ({ at_ 0x200 with i := 0xFFF }.setV 0 1)).map (fun t => (t.i, t.getV regF)) =
      some (0x1000, 0) ∧
    (tick 0xF01E ({ at_ 0x200 with i := 0xFFFF }.setV 0 2)).map (fun t => t.i) = some 1 := by decide

/-- TV87. -/
theorem test_fontIndex : (tick 0xF029 ((at_ 0x200).setV 0 0xF)).map (fun t => t.i) = some 0x9B := by decide

/-- TV88. -/
theorem test_fontIndex_above : (tick 0xF029 ((at_ 0x200).setV 0 0x10)).map stop =
    some (0x202, .halted, ⟨.fontIndexOutOfRange, 0x200, 0xF029, 0x10⟩) := by decide

/-- TV89. -/
theorem test_storeBCD : (tick 0xF333 ({ at_ 0x200 with i := 0x300 }.setV 3 0x7B)).map
    (fun t => Memory.getBytes t.mem 0x2FF 5) = some [0, 1, 2, 3, 0] := by decide

/-- TV94. -/
theorem test_storeBCD_above : (tick 0xF033 ({ at_ 0x200 with i := 0xFFE }.setV 0 0x2A)).map
    (fun t => (stop t, Memory.getBytes t.mem 0xFFE 2)) =
    some ((0x202, .halted, ⟨.memoryOutOfRange, 0x200, 0xF033, 0x1000⟩), [0, 0]) := by decide

/-- TV97 (V0 = 9). -/
theorem test_regDump : (tick 0xF255 ({ regs 2 3 0 with i := 0x300 }.setV 3 4 |>.setV 0 9)).map
    (fun t => (Memory.getBytes t.mem 0x300 4, t.i)) = some ([9, 2, 3, 0], 0x300) := by decide

/-- TV99. -/
theorem test_regDump_above : (tick 0xF155 ({ at_ 0x200 with i := 0xFFF }.setV 0 0xAA)).map
    (fun t => (stop t, Memory.get t.mem 0xFFF)) =
    some ((0x202, .halted, ⟨.memoryOutOfRange, 0x200, 0xF155, 0x1000⟩), 0) := by decide

/-- TV101. -/
theorem test_regLoad : (tick 0xF265 ({ poke (at_ 0x200) 0x300 [0x11, 0x22, 0x33, 0x44] with i := 0x300 }.setV 3 0x99)).map
    (fun t => (t.getV 0, t.getV 1, t.getV 2, t.getV 3)) = some (0x11, 0x22, 0x33, 0x99) := by decide

/-- TV103. -/
theorem test_regLoad_above : (tick 0xF165 ({ at_ 0x200 with i := 0xFFF }.setV 0 5)).map (fun t => (stop t, t.getV 0)) =
    some ((0x202, .halted, ⟨.memoryOutOfRange, 0x200, 0xF165, 0x1000⟩), 5) := by decide

/-- TV104. -/
theorem test_clear : (tick 0x00E0 ((lit (at_ 0x200) [0, 63, 2047]).setV regF 1)).map
    (fun t => (t.fb, t.draw, t.getV regF)) = some (Frame.blank, false, 1) := by decide

/-- TV109: a sprite that wraps over the bottom edge, the draw flag, no collision. -/
theorem test_drawSprite : (tick 0xD012 ({ poke (at_ 0x200) 0x300 [0x80, 0x80] with i := 0x300 }.setV 1 0x1F)).map
    (fun t => (t.fb, t.draw, t.getV regF)) = some ((lit (at_ 0x200) [0, 1984]).fb, true, 0) := by decide

/-- TV112: one pixel set, one cleared: collision. -/
theorem test_drawSprite_hit : (tick 0xD011 (lit { poke (at_ 0x200) 0x300 [0xC0] with i := 0x300 } [1])).map
    (fun t => (t.fb, t.draw, t.getV regF)) = some ((lit (at_ 0x200) [0]).fb, true, 1) := by decide

/-- TV120: mask 0 gives 0 whatever the draw. -/
theorem test_random : (tick 0xC300 ((at_ 0x200).setV 3 0x55)).map (fun t => t.getV 3) = some 0 := by
  have : (tick 0xC300 ((at_ 0x200).setV 3 0x55)).map (fun t => t.getV 3) = some (Config.randomDraw 0 &&& 0) := rfl
  rw [this]; simp

/-- TV121. -/
theorem test_getDelay : (tick 0xF307 { at_ 0x200 with dt := 42 }).map (fun t => (t.getV 3, t.dt)) = some (42, 42) := by decide

/-- TV122. -/
theorem test_setDelay : (tick 0xF015 ((at_ 0x200).setV 0 10)).map (fun t => (t.dt, t.st)) = some (10, 0) := by decide

/-- TV123, TV124. -/
theorem test_setSound : (tick 0xF118 (regs 2 0 0)).map (fun t => (t.st, t.dt)) = some (2, 0) ∧
    (tick 0xF118 { at_ 0x200 with st := 1 }).map (fun t => (t.st, t.beeps)) = some (0, 0) := by decide

/-- TV125. -/
theorem test_waitForNextKeyPress : (tick 0xF30A (held (at_ 0x200) 4)).map (fun t => (t.pc, t.run, t.waitReg)) =
    some (0x202, .waitingForKey, 3) := by decide

/-- TV126. -/
theorem test_waitForNextKeyPress_end : (tick 0xF30A (at_ 0xFFE)).map (fun t => (stop t, t.waitReg)) =
    some ((0x1000, .halted, ⟨.pcOutOfRange, 0xFFE, 0xF30A, 0x1000⟩), 3) := by decide

/-! ### The events -/

/-- The state after an event. -/
def event (e : Event) (s : State) : Option State :=
  match handleEvent e s with
  | .next t => some t
  | .fault _ => none
  | .refused _ => none

/-- E1, E2. -/
theorem test_fetch_faults :
    (event .cpuTick (at_ 0xFFF)).map stop = some (0xFFF, .halted, ⟨.memoryOutOfRange, 0xFFF, 0, 0x1000⟩) ∧
    (event .cpuTick (at_ 0x1000)).map stop = some (0x1000, .halted, ⟨.pcOutOfRange, 0x1000, 0, 0x1000⟩) ∧
    (event .cpuTick (at_ 0x1FE)).map stop = some (0x1FE, .halted, ⟨.pcOutOfRange, 0x1FE, 0, 0x1FE⟩) := by decide

/-- E5: the last tick of ST beeps, a tick at 0 does not. -/
theorem test_timerTick :
    (event .timerTick { at_ 0x204 with dt := 10, st := 1 }).map (fun t => (t.dt, t.st, t.beeps)) = some (9, 0, 1) ∧
    (event .timerTick (at_ 0x204)).map (fun t => (t.dt, t.st, t.beeps)) = some (0, 0, 0) := by decide

/-- A machine that waits for a key into V5 (E6). -/
def waiting : State := { at_ 0x208 with run := .waitingForKey, waitReg := 5, dt := 3, st := 3 }

/-- A halted machine that holds a report. -/
def haltedState : State := { at_ 0x202 with run := .halted, fault := ⟨.stackUnderflow, 0x200, 0x00EE, 0⟩ }

/-- E6. -/
theorem test_keyDown_ends_wait : (event (.keyDown 0xB) waiting).map (fun t => (t.getV 5, t.key[11], t.run, t.pc)) =
    some (0x0B, true, .running, 0x208) := by decide

/-- E6: the timers stand still, and a KeyUp does not end the wait. -/
theorem test_wait_freezes : (event .timerTick waiting) = some waiting ∧ (event .cpuTick waiting) = some waiting ∧
    (event (.keyUp 2) waiting) = some waiting := by decide

/-- E7, E9. -/
theorem test_stop : (event .stop waiting).map stop = some (0x208, .halted, ⟨.stopped, 0x208, 0, 0⟩) ∧
    (event .stop haltedState).map stop =
      some (0x202, .halted, ⟨.stackUnderflow, 0x200, 0x00EE, 0⟩) := by decide

/-- E10. -/
theorem test_drawAck : (event .drawAck { at_ 0x202 with draw := true }).map (fun t => t.draw) = some false := by decide

/-- 70_reset_and_hazards.md R250: the ROM of T9 is placed from 0x200 up, and Halted is left. -/
theorem test_reset : (event (.reset [0x60, 0x05, 0x70, 0x03, 0x00, 0x00] Config.font true) haltedState).map
    (fun t => (stop t, t.strict)) = some ((0x200, .running, ⟨.none, 0, 0, 0⟩), true) := by decide

set_option maxRecDepth 10000 in
/-- The same: what memory holds, at the edges of the ROM and of the font. -/
theorem test_reset_memory : (event (.reset [0x60, 0x05, 0x70] Config.font true) haltedState).map
    (fun t => Memory.get t.mem 0x1FF) = some 0 ∧
    (event (.reset [0x60, 0x05, 0x70] Config.font true) haltedState).map
      (fun t => [0x200, 0x202, 0x203, 0x50, 0x9F].map (Memory.get t.mem)) = some [0x60, 0x70, 0, 0xF0, 0x80] := by
  decide

/-! ### Witnesses: for each statement with hypotheses, states and operands that meet them, at the edges of each clause -/

/-- DecodeOfEncodeIsTheInstruction. -/
theorem witness_wf : (Instr.sys 0x0E1).wf = true ∧ (Instr.nop 0xFFFF).wf = true ∧ (Instr.regLoad 0xF).wf = true := by decide

/-- StepRunsTheDecodedInstruction, at both ends of the range of PC. -/
theorem witness_step :
    (∀ s ∈ [poke (at_ 0x200) 0x200 [0x60, 0x05], poke (at_ 0xFFE) 0xFFE [0x60, 0x05]],
      nextEvent s = .cpuTick ∧ s.run = .running ∧ 0x200 ≤ s.pc.toNat ∧ s.pc.toNat ≤ 4094 ∧
      decode [Memory.get s.mem s.pc.toNat, Memory.get s.mem (s.pc.toNat + 1)] = .ok (.loadConst 0 5, [])) := by
  intro s hs
  fin_cases hs
  · exact ⟨rfl, rfl, by decide, by decide, rfl⟩
  · exact ⟨rfl, rfl, by decide, by decide, rfl⟩

/-- CpuTickFollowsTheExecutionLoop, each clause, PC at its edges. -/
theorem witness_cpuTick : waiting.run ≠ .running ∧ (at_ 0x1FF).run = .running ∧ (at_ 0x1FF).pc.toNat < 0x200 ∧
    4095 < (at_ 0x1000).pc.toNat ∧ (at_ 0xFFF).pc.toNat = 4095 ∧
    (0x200 ≤ (at_ 0x200).pc.toNat ∧ (at_ 0x200).pc.toNat ≤ 4094) ∧
    (0x200 ≤ (at_ 0xFFE).pc.toNat ∧ (at_ 0xFFE).pc.toNat ≤ 4094) := by decide

/-- WithFetchWordRunsThePlacedWord: PC in range at both edges, PC out of range, a later event in the queue. -/
theorem witness_withFetchWord : ((at_ 0x200).withFetchWord 16 0x6005).pc = 0x200 ∧
    ((at_ 0xFFE).withFetchWord 16 0x6005).pc = 0xFFE ∧ ((at_ 0xFFF).withFetchWord 16 0x6005).pc = 0x200 ∧
    nextEvent State.reset = .cpuTick ∧ nextEvent { at_ 0x200 with events := [.stop] } ≠ .cpuTick := by decide

/-- FaultingHandlerWritesNothing. -/
theorem witness_faulting : ∃ t, exec .ret State.reset = .next t ∧ t.fault ≠ State.reset.fault := ⟨_, rfl, by decide⟩

/-- FirstFaultReportIsKept and HaltedIsLeftOnlyByReset (a tick; a Reset). -/
theorem witness_halted : (∃ t, step haltedState = .next t) ∧ haltedState.fault.cause ≠ .none ∧
    haltedState.run = .halted ∧ (∀ rom font b, nextEvent haltedState ≠ .reset rom font b) ∧
    (∃ t, step { haltedState with events := [.reset [] Config.font false] } = .next t) :=
  ⟨⟨_, rfl⟩, by decide, rfl, fun _ _ _ => by simp [nextEvent, haltedState, at_, State.reset], ⟨_, rfl⟩⟩

/-- SysAndNopDoNothing, each clause. -/
theorem witness_sys_nop : (family 0x0000 = 0x0 ∧ (0x0000 : Word) ≠ 0x00E0 ∧ (0x0000 : Word) ≠ 0x00EE) ∧
    (family 0x0FFF = 0x0 ∧ (0x0FFF : Word) ≠ 0x00E0 ∧ (0x0FFF : Word) ≠ 0x00EE) ∧
    (at_ 0x200).strict = false ∧ { at_ 0x200 with strict := true }.strict = true := by decide

/-- A state with a given SP. -/
def depth (n : Word) : State := { at_ 0x300 with sp := n }

/-- CallPushesPcAndJumps, CallThenReturnRestoresPc, FullAndEmptyStackAreFaults, ReturnPopsIntoPc: SP at the edges. -/
theorem witness_depth : (depth 0).sp.toNat < 15 ∧ (depth 14).sp.toNat < 15 ∧ 15 ≤ (depth 15).sp.toNat ∧ (depth 0).sp = 0 ∧
    (depth 1).sp.toNat = (0 : Fin 16).val + 1 ∧ (depth 16).sp.toNat = (15 : Fin 16).val + 1 ∧ 16 < (depth 17).sp.toNat := by
  decide

/-- CallThenReturnRestoresPc: a callee's state with the SP and STACK that Call left. -/
theorem witness_callee : ∃ t, exec (.call 0x300) (depth 14) = .next t ∧
    ∃ c : State, c.sp = t.sp ∧ c.stack = t.stack ∧ c.pc ≠ t.pc := ⟨_, rfl, at_ 0 |> fun s =>
      { s with sp := 15, stack := (pushPC (depth 14)).stack }, rfl, rfl, by decide⟩

/-- SkipsAddTwoToPcOnTheirCondition, IndicesAboveFifteenAreFaults, IndexInstructionsWriteOnlyI: indices 0, 15, 16, 255. -/
theorem witness_indices : ((at_ 0x202).getV 5).toNat = (0 : Fin 16).val ∧
    (((at_ 0x202).setV 5 15).getV 5).toNat = (15 : Fin 16).val ∧ 15 < (((at_ 0x202).setV 5 16).getV 5).toNat ∧
    (16 : Word).toNat = (((at_ 0x202).setV 5 16).getV 5).toNat ∧ 15 < (((at_ 0x202).setV 5 255).getV 5).toNat ∧
    (255 : Word).toNat = (((at_ 0x202).setV 5 255).getV 5).toNat := by decide

/-- SkipStepReachesPlusFourOrPlusTwo: a condition that holds and one that does not, at 0x200, at 4092 and 4094. -/
theorem witness_skipStep :
    (∀ s ∈ [poke (at_ 0x200) 0x200 [0x30, 0x00], poke (at_ 0xFFC) 0xFFC [0x30, 0x00], poke (at_ 0xFFE) 0xFFE [0x30, 0x00]],
      nextEvent s = .cpuTick ∧ s.run = .running ∧ 0x200 ≤ s.pc.toNat ∧ s.pc.toNat ≤ 4094 ∧
      skipCondition s (decodeWord (fetchWord s.mem s.pc.toNat)) = some true ∧
      skipCondition (s.setV 0 1) (decodeWord (fetchWord s.mem s.pc.toNat)) = some false) ∧
    (∃ t, exec (.jump 0x300) State.reset = .next t ∧ t.pc ≠ State.reset.pc) := by
  refine ⟨by decide, ⟨_, rfl, by decide⟩⟩

/-- The hypotheses on results of AddConst, AddVal (255 and 256), the subtractions and the shifts. -/
theorem witness_alu :
    (0 : Byte).toNat = (((regs 0xFF 0 0).getV 1).toNat + (1 : Byte).toNat) % 256 ∧
    (0xFF : Byte).toNat = (((regs 0xFF 0 0).getV 1).toNat + ((regs 0xFF 0 0).getV 2).toNat) % 256 ∧
    ((regs 0xFF 0 0).getV 1).toNat + ((regs 0xFF 0 0).getV 2).toNat ≤ 255 ∧
    (0 : Byte).toNat = (((regs 0xFF 1 0).getV 1).toNat + ((regs 0xFF 1 0).getV 2).toNat) % 256 ∧
    255 < ((regs 0xFF 1 0).getV 1).toNat + ((regs 0xFF 1 0).getV 2).toNat ∧
    (0xFF : Byte).toNat = (256 + ((regs 0 1 0).getV 1).toNat - ((regs 0 1 0).getV 2).toNat) % 256 ∧
    (1 : Byte).toNat = (256 + ((regs 0 1 0).getV 2).toNat - ((regs 0 1 0).getV 1).toNat) % 256 ∧
    (0x40 : Byte).toNat = ((regs 0x81 0 0).getV 1).toNat / 2 ∧
    (2 : Byte).toNat = ((regs 0x81 0 0).getV 1).toNat * 2 % 256 := by decide

/-- A state with a given I. -/
def index (n : Word) : State := { at_ 0x300 with i := n }

/-- StoreBCDWritesThreeDigits, RegDumpStoresV0ToVx, RegLoadLoadsV0ToVx, StoredBytesAreFetchedNext,
BlockAccessAbove4095IsAFault: I on both sides of the edge, and above 4095. -/
theorem witness_blocks : (index 4093).i.toNat ≤ 4093 ∧ 4093 < (index 4094).i.toNat ∧
    (index 4080).i.toNat + (0xF : Nibble).toNat ≤ 4095 ∧ 4095 < (index 4081).i.toNat + (0xF : Nibble).toNat ∧
    (4096 : Word).toNat = max (index 4094).i.toNat 4096 ∧ (0xFFFF : Word).toNat = max (index 0xFFFF).i.toNat 4096 ∧
    (index 4095).i.toNat + (1 : Nibble).toNat ≤ 4096 ∧ 0 < (2 : Nibble).toNat ∧
    4096 < (index 4095).i.toNat + (2 : Nibble).toNat ∧ (0 : Nibble).toNat = 0 ∧
    (14 : Nibble).toNat + 1 ≤ (0xF : Nibble).toNat ∧ (0 : Nibble).toNat < (1 : Nibble).toNat := by decide

/-- The sprite of one pixel at (0, 0). -/
def dot : State := { poke (at_ 0x200) 0x300 [0x80] with i := 0x300 }

/-- DrawSpriteXorsWrappedPixels, DrawingTwiceRestoresTheFramebuffer: a hit on a lit cell, and a blank screen. -/
theorem witness_sprite : SpriteHits (lit dot [0]) 0 1 1 0 0 ∧ pixel (lit dot [0]) 0 0 = true ∧
    (∀ c r, pixel dot c r = false) ∧ (0 : Nibble) ≠ regF ∧ (1 : Nibble) ≠ regF ∧
    dot.i.toNat + (1 : Nibble).toNat ≤ 4096 :=
  ⟨⟨0, by decide, 0, by decide, by decide, by decide, by decide⟩, by decide, fun c r => by
    show Frame.cell Frame.blank _ = false; exact cell_blank _, by decide, by decide, by decide⟩

/-- OnlyRandomTakesADraw and EachElementHasOnlyItsWriters: a Random, another instruction, and each element written. -/
theorem witness_writers : (∃ t, exec (.random 3 0) State.reset = .next t) ∧ (∃ t, exec (.sys 0) State.reset = .next t) ∧
    (∃ t, exec (.regDump 0) ((index 0x300).setV 0 1) = .next t ∧ t.mem ≠ ((index 0x300).setV 0 1).mem) ∧
    (∃ t, exec .clear (lit (at_ 0x200) [0]) = .next t ∧ t.fb ≠ (lit (at_ 0x200) [0]).fb) ∧
    (∃ t, exec (.drawSprite 0 1 1) dot = .next t ∧ t.draw ≠ dot.draw) ∧
    (∃ t, exec (.loadIndex 1) State.reset = .next t ∧ t.i ≠ State.reset.i) ∧
    (∃ t, exec (.call 0x300) State.reset = .next t ∧ t.sp ≠ State.reset.sp ∧ t.stack ≠ State.reset.stack) ∧
    (∃ t, exec (.setDelay 1) (regs 1 0 0) = .next t ∧ t.dt ≠ (regs 1 0 0).dt) ∧
    (∃ t, exec (.setSound 1) (regs 1 0 0) = .next t ∧ t.st ≠ (regs 1 0 0).st) ∧
    (∃ t, exec (.waitForNextKeyPress 3) State.reset = .next t ∧ t.waitReg ≠ State.reset.waitReg ∧
      t.run ≠ State.reset.run) ∧
    (∃ t, exec .ret State.reset = .next t ∧ t.run ≠ State.reset.run ∧ t.fault ≠ State.reset.fault) ∧
    (∃ t, exec (.loadConst 0 5) State.reset = .next t ∧ t.v ≠ State.reset.v) ∧
    (∃ t, exec (.skipEqConst 0 0) State.reset = .next t ∧ t.pc ≠ State.reset.pc) ∧
    (∃ t, exec (.random 3 0) State.reset = .next t ∧ t.draws ≠ State.reset.draws) :=
  ⟨⟨_, rfl⟩, ⟨_, rfl⟩, ⟨_, rfl, by decide⟩, ⟨_, rfl, by decide⟩, ⟨_, rfl, by decide⟩, ⟨_, rfl, by decide⟩,
    ⟨_, rfl, by decide, by decide⟩, ⟨_, rfl, by decide⟩, ⟨_, rfl, by decide⟩, ⟨_, rfl, by decide, by decide⟩,
    ⟨_, rfl, by decide, by decide⟩, ⟨_, rfl, by decide⟩, ⟨_, rfl, by decide⟩, ⟨_, rfl, by decide⟩⟩

/-- RegistersChangeOnlyAsDestinations. -/
theorem witness_register : ∃ t, exec (.loadConst 0 5) State.reset = .next t ∧ t.getV 0 ≠ State.reset.getV 0 :=
  ⟨_, rfl, by decide⟩

/-- KeyDownDeliversTheWaitedKey, KeyEventsWriteTheSnapshot, TimerTickCountsOnlyWhileRunning, StopHaltsAndReportsStopped,
EventsNeverTransferControl: states in each run state, with a key index at each edge. -/
theorem witness_runs : waiting.run = .waitingForKey ∧ waiting.waitReg = 5 ∧ (at_ 0x200).run = .running ∧
    haltedState.run = .halted ∧ (at_ 0x200).fault.cause = .none ∧ 15 < 16 ∧
    event .timerTick waiting ≠ none ∧ event (.keyDown 15) waiting ≠ none ∧ event (.keyUp 0) waiting ≠ none ∧
    event .drawAck waiting ≠ none ∧ event .stop waiting ≠ none := by decide

/-- TimersReachZeroAfterExactlyTheirCount: ten ticks (T7), and none. -/
theorem witness_timers : { at_ 0x200 with dt := 10, events := List.replicate 10 .timerTick }.run = .running ∧
    (at_ 0x200).events = List.replicate 0 .timerTick := by decide

/-- BeepOnlyFromTimerTickAtOne: the tick that beeps. -/
theorem witness_beep : (∃ t, step { at_ 0x200 with st := 1, events := [.timerTick] } = .next t) ∧
    nextEvent { at_ 0x200 with st := 1, events := [.timerTick] } = .timerTick := ⟨⟨_, rfl⟩, by decide⟩

/-- RunStateChangesOnlyAsTabled: each of the five changes. -/
theorem witness_runChanges :
    (∃ t, step ((at_ 0x200).withFetchWord 16 0xF30A) = .next t ∧ t.run = .waitingForKey) ∧
    (∃ t, step { waiting with events := [.keyDown 4] } = .next t ∧ t.run = .running) ∧
    (∃ t, step { waiting with events := [.stop] } = .next t ∧ t.run = .halted) ∧
    (∃ t, step ((at_ 0x200).withFetchWord 16 0x00EE) = .next t ∧ t.run = .halted) ∧
    (∃ t, step { haltedState with events := [.reset [] Config.font false] } = .next t ∧ t.run ≠ .halted) :=
  ⟨⟨_, rfl, by decide⟩, ⟨_, rfl, by decide⟩, ⟨_, rfl, by decide⟩, ⟨_, rfl, by decide⟩, ⟨_, rfl, by decide⟩⟩

/-- DrawFlagIsInvisibleToExecution: a step of each outcome. -/
theorem witness_outcomes : (∃ t, step State.reset = .next t) ∧
    (∃ f, step ((depth 17).withFetchWord 16 0x00EE) = .fault f) ∧
    (∃ q, step { at_ 0x200 with events := [.keyDown 16] } = .refused q) := ⟨⟨_, rfl⟩, ⟨_, rfl⟩, ⟨_, rfl⟩⟩

/-- InstructionsThatCannotFault: a member of the list, and Nop where it is one. -/
theorem witness_cannotFault : Instr.nop 0xFFFF ∈ (if (at_ 0x200).strict then [] else [Instr.nop 0xFFFF]) := by decide

/-- ResetEventEstablishesTheResetState: the longest ROM, the FONT's length, and a ROM one byte too long. -/
theorem witness_reset : (List.replicate 3584 (0 : Byte)).length ≤ 3584 ∧ Config.font.length = 80 ∧
    3584 < (List.replicate 3585 (0 : Byte)).length := by
  refine ⟨by rw [List.length_replicate], by decide, by rw [List.length_replicate]; omega⟩

/-- A state of the invariant whose top return address is 4096 (a Call at 4094). -/
def called : State := { at_ 0x300 with sp := 1, stack := State.reset.stack.set 0 4096 }

/-- EveryStepKeepsTheInvariant, InvariantStatesAlwaysStep, ReturnLeavesTheRangeOnlyWithPopped4096. -/
theorem witness_inv : called.Inv ∧ 0 < called.sp.toNat ∧ (∃ t, step called = .next t) ∧
    (∃ t, exec .ret called = .next t ∧ 4095 < t.pc.toNat) := by
  refine ⟨⟨rfl, by decide, ?_, by decide, by decide, by decide⟩, by decide, ⟨_, rfl⟩, ⟨_, rfl, by decide⟩⟩
  unfold State.stackOk; decide

/-- EveryReachableStateMeetsTheInvariant: a reachable state that is not reset. -/
theorem witness_reachable : ∃ t, Reachable t ∧ t ≠ State.reset :=
  ⟨_, .event (.keyDown 1) .reset rfl, by decide⟩

end Sys2Proof.Tests
end

