-- ==== Sys2Proof/Proofs/LoadAlu.lean ====
section
/-! SUPPORT. Proofs about the two constant forms of 42_load_alu.md: the words of families 6 and 7 (30_encoding.md R65),
what their handlers answer, then the statements. -/

namespace Sys2Proof.Machine

/-! ### The words of families 6 and 7 -/

theorem decodeWord_wordXNN_six (x : Nibble) (nn : Byte) : decodeWord (wordXNN 0x6 x nn) = .loadConst x nn := by
  simp [decodeWord]

theorem decodeWord_wordXNN_seven (x : Nibble) (nn : Byte) : decodeWord (wordXNN 0x7 x nn) = .addConst x nn := by
  simp [decodeWord]

/-! ### The handlers -/

theorem exec_loadConst (x : Nibble) (nn : Byte) (s : State) : exec (.loadConst x nn) s = .next (s.setV x nn) := rfl

theorem exec_addConst (x : Nibble) (nn : Byte) (s : State) :
    exec (.addConst x nn) s = .next (s.setV x (s.getV x + nn)) := rfl

/-- The byte sum is the spec's sum modulo 256 (42_load_alu.md R122). -/
theorem byte_eq_add {a k b : Byte} (h : b.toNat = (a.toNat + k.toNat) % 256) : b = a + k :=
  BitVec.eq_of_toNat_eq (h.trans (BitVec.toNat_add a k).symm)

/-! ### The statements -/

/-- Settles O20: family 6 is LoadConst, whose handler is one register write. -/
theorem loadConstSetsVx : Obligations.LoadConstSetsVx := by
  intro x nn
  refine ⟨decodeWord_wordXNN_six x nn, fun s => ?_⟩
  exact ⟨_, exec_loadConst x nn s, writesReg_setV s x nn⟩

/-- Settles O21: family 7 is AddConst, whose handler is one register write of the byte sum; the write keeps every other
register, VF among them. -/
theorem addConstAddsModulo256WithoutFlag : Obligations.AddConstAddsModulo256WithoutFlag := by
  intro x nn
  refine ⟨decodeWord_wordXNN_seven x nn, fun s b hb => ?_⟩
  obtain rfl : b = s.getV x + nn := byte_eq_add hb
  exact ⟨_, exec_addConst x nn s, writesReg_setV s x (s.getV x + nn)⟩

end Sys2Proof.Machine
end

