-- ==== Sys2Proof/Proofs/DrawFlag.lean ====
section
/-! SUPPORT. Nothing depends on when DrawAck arrives (70_reset_and_hazards.md R264). The idea: DRAW is hidden by
acknowledging it, and an answer is the same with DRAW hidden whether or not a DrawAck came just before it. This is said
of each shared operation, then of the handlers, the tick and the events, and so of the step. -/

namespace Sys2Proof.Machine

/-- An answer with DRAW hidden: a DrawAck is taken right after it. -/
def ackAfter : Result → Result
  | .next t => .next (drawAckEvent t)
  | .fault f => .fault f
  | .refused q => .refused q

/-! ### Two answers that agree with DRAW hidden -/

theorem eq_of_drawAckEvent_eq {t u : State} (h : drawAckEvent u = drawAckEvent t) : u = { t with draw := u.draw } :=
  calc u = { drawAckEvent u with draw := u.draw } := rfl
    _ = { drawAckEvent t with draw := u.draw } := by rw [h]
    _ = { t with draw := u.draw } := rfl

theorem next_of_ackAfter_eq {r : Result} {t : State} (h : ackAfter r = ackAfter (.next t)) :
    ∃ u, r = .next u ∧ u = { t with draw := u.draw } := by
  cases r with
  | next u => exact ⟨u, rfl, eq_of_drawAckEvent_eq (by simpa [ackAfter] using h)⟩
  | fault f => simp [ackAfter] at h
  | refused q => simp [ackAfter] at h

theorem fault_of_ackAfter_eq {r : Result} {f : Fault} (h : ackAfter r = ackAfter (.fault f)) : r = .fault f := by
  cases r with
  | next u => simp [ackAfter] at h
  | fault g => simpa [ackAfter] using h
  | refused q => simp [ackAfter] at h

theorem refused_of_ackAfter_eq {r : Result} {q : Refusal} (h : ackAfter r = ackAfter (.refused q)) :
    r = .refused q := by
  cases r with
  | next u => simp [ackAfter] at h
  | fault f => simp [ackAfter] at h
  | refused p => simpa [ackAfter] using h

/-! ### Choices that do not look at DRAW -/

theorem ackAfter_ite {c : Prop} [Decidable c] {r₁ r₂ r₁' r₂' : Result} (h₁ : ackAfter r₁' = ackAfter r₁)
    (h₂ : ackAfter r₂' = ackAfter r₂) :
    ackAfter (if c then r₁' else r₂') = ackAfter (if c then r₁ else r₂) := by
  by_cases h : c
  · simpa only [if_pos h] using h₁
  · simpa only [if_neg h] using h₂

theorem drawAckEvent_ite {c : Prop} [Decidable c] {t₁ t₂ t₁' t₂' : State} (h₁ : drawAckEvent t₁' = drawAckEvent t₁)
    (h₂ : drawAckEvent t₂' = drawAckEvent t₂) :
    drawAckEvent (if c then t₁' else t₂') = drawAckEvent (if c then t₁ else t₂) := by
  by_cases h : c
  · simpa only [if_pos h] using h₁
  · simpa only [if_neg h] using h₂

theorem ackAfter_next {t t' : State} (h : drawAckEvent t' = drawAckEvent t) :
    ackAfter (.next t') = ackAfter (.next t) := congrArg Host.Outcome.next h

/-! ### What a DrawAck leaves unchanged, as far as the shared operations choose by it -/

@[simp] theorem drawAckEvent_pc (s : State) : (drawAckEvent s).pc = s.pc := rfl
@[simp] theorem drawAckEvent_sp (s : State) : (drawAckEvent s).sp = s.sp := rfl
@[simp] theorem drawAckEvent_stack (s : State) : (drawAckEvent s).stack = s.stack := rfl
@[simp] theorem drawAckEvent_effAddr (s : State) (k : Nat) : (drawAckEvent s).effAddr k = s.effAddr k := rfl

/-! ### The shared operations -/

theorem skipIf_drawAckEvent (c : Bool) (s : State) : ackAfter (skipIf c (drawAckEvent s)) = ackAfter (skipIf c s) :=
  ackAfter_next (drawAckEvent_ite rfl rfl)

theorem popPC_drawAckEvent (s : State) : ackAfter (popPC (drawAckEvent s)) = ackAfter (popPC s) := by
  unfold popPC
  simp only [drawAckEvent_stack, drawAckEvent_sp]
  cases s.stack[(s.sp - 1).toNat]? <;> rfl

theorem withIndex_drawAckEvent (i : Instr) (c : Cause) (x : Nibble) (s : State) {k k' : Byte → Result}
    (hk : ∀ b, ackAfter (k' b) = ackAfter (k b)) :
    ackAfter (withIndex i c x (drawAckEvent s) k') = ackAfter (withIndex i c x s k) :=
  ackAfter_ite rfl (hk _)

theorem storeBlock_drawAckEvent (i : Instr) (bytes : List Byte) (s : State) :
    ackAfter (storeBlock i bytes (drawAckEvent s)) = ackAfter (storeBlock i bytes s) := by
  unfold storeBlock
  simp only [drawAckEvent_effAddr]
  cases outOfRange (s.effAddr 0) bytes.length <;> rfl

theorem loadBlock_drawAckEvent (i : Instr) (n : Nat) (s : State) {k k' : List Byte → Result}
    (hk : ∀ bytes, ackAfter (k' bytes) = ackAfter (k bytes)) :
    ackAfter (loadBlock i n (drawAckEvent s) k') = ackAfter (loadBlock i n s k) := by
  unfold loadBlock
  simp only [drawAckEvent_effAddr]
  cases outOfRange (s.effAddr 0) n with
  | some bad => rfl
  | none => exact hk _

/-! ### The handlers -/

/-- No handler reads DRAW: the forms over a shared operation by its lemma, every other by computing its one update. -/
theorem exec_drawAckEvent (i : Instr) (s : State) : ackAfter (exec i (drawAckEvent s)) = ackAfter (exec i s) := by
  cases i
  case ret => exact ackAfter_ite rfl (popPC_drawAckEvent s)
  case call nnn => exact ackAfter_ite rfl rfl
  case nop op => exact ackAfter_ite rfl rfl
  case skipEqConst x nn => exact skipIf_drawAckEvent _ s
  case skipNeConst x nn => exact skipIf_drawAckEvent _ s
  case skipEqVal x y low => exact skipIf_drawAckEvent _ s
  case skipNeVal x y low => exact skipIf_drawAckEvent _ s
  case skipKeyDown x => exact withIndex_drawAckEvent _ _ x s fun k => skipIf_drawAckEvent (keyDown s k) s
  case skipKeyUp x => exact withIndex_drawAckEvent _ _ x s fun k => skipIf_drawAckEvent (!keyDown s k) s
  case fontIndex x =>
    simp only [exec, execFontIndex]
    exact withIndex_drawAckEvent _ _ x s fun _ => rfl
  case addVal x y => exact ackAfter_next (drawAckEvent_ite rfl rfl)
  case storeBCD x => exact storeBlock_drawAckEvent _ (bcdDigits (s.getV x)) s
  case regDump x => exact storeBlock_drawAckEvent _ (s.regsUpTo x) s
  case regLoad x =>
    simp only [exec, execRegLoad]
    exact loadBlock_drawAckEvent _ _ s fun _ => rfl
  case drawSprite x y n =>
    simp only [exec, execDrawSprite]
    exact loadBlock_drawAckEvent _ _ s fun _ => rfl
  all_goals rfl

/-! ### The CPU tick -/

/-- The PC check does not look at DRAW. -/
theorem afterHandler_ackAfter (a op : Word) (r : Result) :
    ackAfter (afterHandler a op (ackAfter r)) = ackAfter (afterHandler a op r) := by
  cases r with
  | next t => exact ackAfter_ite rfl (ackAfter_ite rfl rfl)
  | fault f => rfl
  | refused q => rfl

theorem afterHandler_congr (a op : Word) {r r' : Result} (h : ackAfter r' = ackAfter r) :
    ackAfter (afterHandler a op r') = ackAfter (afterHandler a op r) := by
  rw [← afterHandler_ackAfter, h, afterHandler_ackAfter]

theorem cpuTick_drawAckEvent (s : State) : ackAfter (cpuTick (drawAckEvent s)) = ackAfter (cpuTick s) := by
  refine ackAfter_ite rfl (ackAfter_ite rfl ?_)
  simp only [drawAckEvent_pc]
  cases outOfRange s.pc.toNat 2 with
  | some bad => rfl
  | none => exact afterHandler_congr _ _ (exec_drawAckEvent _ { s with pc := s.pc + 2 })

/-! ### The events and the step -/

theorem handleEvent_drawAckEvent (e : Event) (s : State) :
    ackAfter (handleEvent e (drawAckEvent s)) = ackAfter (handleEvent e s) := by
  cases e with
  | cpuTick => exact cpuTick_drawAckEvent s
  | timerTick => exact ackAfter_next (drawAckEvent_ite rfl rfl)
  | keyDown k => exact ackAfter_ite rfl (ackAfter_next (drawAckEvent_ite rfl rfl))
  | keyUp k => exact ackAfter_ite rfl rfl
  | drawAck => rfl
  | stop => exact ackAfter_next (drawAckEvent_ite rfl rfl)
  | reset rom font strict => exact ackAfter_ite rfl (ackAfter_ite rfl rfl)

theorem step_drawAckEvent (s : State) : ackAfter (step (drawAckEvent s)) = ackAfter (step s) :=
  handleEvent_drawAckEvent (nextEvent s) (dropEvent s)

/-- Whatever DRAW holds, a step answers the same but for DRAW. -/
theorem step_set_draw (s : State) (b : Bool) : ackAfter (step { s with draw := b }) = ackAfter (step s) :=
  calc ackAfter (step { s with draw := b }) = ackAfter (step (drawAckEvent { s with draw := b })) :=
        (step_drawAckEvent _).symm
    _ = ackAfter (step (drawAckEvent s)) := rfl
    _ = ackAfter (step s) := step_drawAckEvent s

/-- Settles O47: DrawAck only clears DRAW, and two answers that agree with DRAW hidden are the same fault, the
same refusal, or next states that differ in DRAW alone. -/
theorem drawFlagIsInvisibleToExecution : Obligations.DrawFlagIsInvisibleToExecution := by
  intro s b
  have key := step_set_draw s b
  refine ⟨rfl, fun t ht => ?_, fun f hf => ?_, fun q hq => ?_⟩
  · exact next_of_ackAfter_eq (ht ▸ key)
  · exact fault_of_ackAfter_eq (hf ▸ key)
  · exact refused_of_ackAfter_eq (hq ▸ key)

end Sys2Proof.Machine
end

/-! SUPPORT. Decoding and encoding are inverse (30_encoding.md R61 to R67): what the decoder answers for a word, by its
family and its trailing field; then the round trips, the selection among the rows of the table, and the words of Nop. -/

namespace Sys2Proof

/-! ### A word from its family and its other fields -/

theorem wordADDR_of_family {op : Word} {f : Nibble} (h : family op = f) : wordADDR f (fieldNNN op) = op := by
  rw [← h, wordADDR_fields]

theorem wordXNN_of_family {op : Word} {f : Nibble} (h : family op = f) :
    wordXNN f (fieldX op) (fieldNN op) = op := by
  rw [← h, wordXNN_fields]

theorem wordXYN_of_family {op : Word} {f : Nibble} (h : family op = f) :
    wordXYN f (fieldX op) (fieldY op) (fieldN op) = op := by
  rw [← h, wordXYN_fields]

theorem wordXNN_of_family_byte {op : Word} {f : Nibble} {nn : Byte} (h : family op = f) (hn : fieldNN op = nn) :
    wordXNN f (fieldX op) nn = op := by
  rw [← hn, wordXNN_of_family h]

theorem wordXYN_of_family_nibble {op : Word} {f n : Nibble} (h : family op = f) (hn : fieldN op = n) :
    wordXYN f (fieldX op) (fieldY op) n = op := by
  rw [← hn, wordXYN_of_family h]

theorem nibble_cases : ∀ f : Nibble, f = 0x0 ∨ f = 0x1 ∨ f = 0x2 ∨ f = 0x3 ∨ f = 0x4 ∨ f = 0x5 ∨ f = 0x6 ∨ f = 0x7 ∨
    f = 0x8 ∨ f = 0x9 ∨ f = 0xA ∨ f = 0xB ∨ f = 0xC ∨ f = 0xD ∨ f = 0xE ∨ f = 0xF := by
  decide

/-! ### The families that select among several instructions -/

theorem decodeWord_of_family_0 {op : Word} (h : family op = 0x0) : decodeWord op = decodeFamily0 op := by
  unfold decodeWord; rw [h]; rfl

theorem decodeWord_of_family_8 {op : Word} (h : family op = 0x8) : decodeWord op = decodeFamily8 op := by
  unfold decodeWord; rw [h]; rfl

theorem decodeWord_of_family_E {op : Word} (h : family op = 0xE) : decodeWord op = decodeFamilyE op := by
  unfold decodeWord; rw [h]; rfl

theorem decodeWord_of_family_F {op : Word} (h : family op = 0xF) : decodeWord op = decodeFamilyF op := by
  unfold decodeWord; rw [h]; rfl

/-! ### Encoding what was decoded -/

theorem encode_decodeFamily0 {op : Word} (h : family op = 0x0) : encode (decodeFamily0 op) = op := by
  unfold decodeFamily0
  split
  · exact Eq.symm ‹op = 0x00E0›
  split
  · exact Eq.symm ‹op = 0x00EE›
  · exact wordADDR_of_family h

theorem encode_decodeFamily8 {op : Word} (h : family op = 0x8) : encode (decodeFamily8 op) = op := by
  unfold decodeFamily8
  dsimp only
  repeat' split
  case isFalse.isFalse.isFalse.isFalse.isFalse.isFalse.isFalse.isFalse.isFalse => rfl
  all_goals rename_i hn; exact wordXYN_of_family_nibble h hn

theorem encode_decodeFamilyE {op : Word} (h : family op = 0xE) : encode (decodeFamilyE op) = op := by
  unfold decodeFamilyE
  dsimp only
  repeat' split
  case isFalse.isFalse => rfl
  all_goals rename_i hn; exact wordXNN_of_family_byte h hn

theorem encode_decodeFamilyF {op : Word} (h : family op = 0xF) : encode (decodeFamilyF op) = op := by
  unfold decodeFamilyF
  dsimp only
  repeat' split
  case isFalse.isFalse.isFalse.isFalse.isFalse.isFalse.isFalse.isFalse.isFalse => rfl
  all_goals rename_i hn; exact wordXNN_of_family_byte h hn

theorem encode_decodeWord (op : Word) : encode (decodeWord op) = op := by
  rcases nibble_cases (family op) with h | h | h | h | h | h | h | h | h | h | h | h | h | h | h | h <;>
    unfold decodeWord <;> rw [h]
  · exact encode_decodeFamily0 h
  · exact wordADDR_of_family h
  · exact wordADDR_of_family h
  · exact wordXNN_of_family h
  · exact wordXNN_of_family h
  · exact wordXYN_of_family h
  · exact wordXNN_of_family h
  · exact wordXNN_of_family h
  · exact encode_decodeFamily8 h
  · exact wordXYN_of_family h
  · exact wordADDR_of_family h
  · exact wordADDR_of_family h
  · exact wordXNN_of_family h
  · exact wordXYN_of_family h
  · exact encode_decodeFamilyE h
  · exact encode_decodeFamilyF h

/-! ### The words of Nop -/

/-- Only families 8, E and F have words of Nop. -/
theorem decodeWord_ne_nop {op : Word} (h8 : family op ≠ 0x8) (hE : family op ≠ 0xE) (hF : family op ≠ 0xF) (w : Word) :
    decodeWord op ≠ .nop w := by
  intro h
  rcases nibble_cases (family op) with h0 | hf | hf | hf | hf | hf | hf | hf | hf | hf | hf | hf | hf | hf | hf | hf
  · rw [decodeWord_of_family_0 h0, decodeFamily0] at h
    split_ifs at h
  all_goals try contradiction
  all_goals unfold decodeWord at h; rw [hf] at h; cases h

/-- `unrecognised` in the terms of the fields. -/
theorem unrecognised_iff (op : Word) :
    unrecognised op = true ↔
      (family op = 0x8 ∧ (fieldN op = 0x8 ∨ fieldN op = 0x9 ∨ fieldN op = 0xA ∨ fieldN op = 0xB ∨ fieldN op = 0xC ∨
        fieldN op = 0xD ∨ fieldN op = 0xF)) ∨
      (family op = 0xE ∧ fieldNN op ≠ 0x9E ∧ fieldNN op ≠ 0xA1) ∨
      (family op = 0xF ∧ fieldNN op ∉ ([0x07, 0x0A, 0x15, 0x18, 0x1E, 0x29, 0x33, 0x55, 0x65] : List Byte)) := by
  show (if family op = 0x8 then _ else if family op = 0xE then _ else if family op = 0xF then _ else false) = true ↔ _
  split_ifs with h8 hE hF
  · simp [h8, fieldN, or_assoc]
  · simp [hE, fieldNN]
  · simp [hF, fieldNN, and_assoc]
  · simp only [h8, hE, hF, false_and, or_false]

/-- The trailing nibbles of family 8 that no row has. -/
theorem nibble_unlisted_iff : ∀ n : Nibble,
    (n ≠ 0x0 ∧ n ≠ 0x1 ∧ n ≠ 0x2 ∧ n ≠ 0x3 ∧ n ≠ 0x4 ∧ n ≠ 0x5 ∧ n ≠ 0x6 ∧ n ≠ 0x7 ∧ n ≠ 0xE) ↔
      (n = 0x8 ∨ n = 0x9 ∨ n = 0xA ∨ n = 0xB ∨ n = 0xC ∨ n = 0xD ∨ n = 0xF) := by
  decide

theorem decodeFamily8_eq_nop_iff (op : Word) :
    decodeFamily8 op = .nop op ↔
      (fieldN op = 0x8 ∨ fieldN op = 0x9 ∨ fieldN op = 0xA ∨ fieldN op = 0xB ∨ fieldN op = 0xC ∨ fieldN op = 0xD ∨
        fieldN op = 0xF) := by
  rw [← nibble_unlisted_iff]
  unfold decodeFamily8
  dsimp only
  split_ifs <;> simp_all

theorem decodeFamilyE_eq_nop_iff (op : Word) :
    decodeFamilyE op = .nop op ↔ fieldNN op ≠ 0x9E ∧ fieldNN op ≠ 0xA1 := by
  unfold decodeFamilyE
  dsimp only
  split_ifs <;> simp_all

theorem decodeFamilyF_eq_nop_iff (op : Word) :
    decodeFamilyF op = .nop op ↔
      fieldNN op ∉ ([0x07, 0x0A, 0x15, 0x18, 0x1E, 0x29, 0x33, 0x55, 0x65] : List Byte) := by
  unfold decodeFamilyF
  dsimp only
  split_ifs <;> simp_all

/-- Nop is selected by exactly the words of 30_encoding.md R67. -/
theorem decodeWord_eq_nop_iff (op : Word) : decodeWord op = .nop op ↔ unrecognised op = true := by
  rw [unrecognised_iff]
  by_cases h8 : family op = 0x8
  · simp [decodeWord_of_family_8 h8, decodeFamily8_eq_nop_iff, h8]
  by_cases hE : family op = 0xE
  · simp [decodeWord_of_family_E hE, decodeFamilyE_eq_nop_iff, hE]
  by_cases hF : family op = 0xF
  · simp [decodeWord_of_family_F hF, decodeFamilyF_eq_nop_iff, hF]
  · simp only [decodeWord_ne_nop h8 hE hF, h8, hE, hF, false_and, or_false]

/-- The only word that Nop keeps is the word it was decoded from. -/
theorem eq_of_decodeWord_eq_nop {op w : Word} (h : decodeWord op = .nop w) : w = op :=
  (congrArg encode h).symm.trans (encode_decodeWord op)

/-- Sys keeps neither of the literals' words: they override it (30_encoding.md R64). -/
theorem wf_of_decodeWord_eq_sys {op : Word} {nnn : Addr12} (h : decodeWord op = .sys nnn) :
    (Instr.sys nnn).wf = true := by
  have hop : wordADDR 0x0 nnn = op := (congrArg encode h).symm.trans (encode_decodeWord op)
  have hE0 : nnn ≠ 0x0E0 := by rintro rfl; subst hop; revert h; decide
  have hEE : nnn ≠ 0x0EE := by rintro rfl; subst hop; revert h; decide
  simp only [Instr.wf, hE0, hEE, ne_eq, not_false_eq_true, decide_true, Bool.and_self]

theorem wf_decodeWord (op : Word) : (decodeWord op).wf = true := by
  cases h : decodeWord op with
  | sys nnn => exact wf_of_decodeWord_eq_sys h
  | nop w =>
    obtain rfl := eq_of_decodeWord_eq_nop h
    exact (decodeWord_eq_nop_iff w).mp h
  | _ => rfl

/-! ### Decoding what was encoded -/

/-- Family 0 without the two literals is Sys. -/
theorem decodeWord_sys {op : Word} (h : family op = 0x0) (hE0 : op ≠ 0x00E0) (hEE : op ≠ 0x00EE) :
    decodeWord op = .sys (fieldNNN op) := by
  rw [decodeWord_of_family_0 h, decodeFamily0, if_neg hE0, if_neg hEE]

theorem decodeWord_wordADDR_zero {nnn : Addr12} (h : (Instr.sys nnn).wf = true) :
    decodeWord (wordADDR 0x0 nnn) = .sys nnn := by
  simp only [Instr.wf, Bool.and_eq_true, decide_eq_true_eq] at h
  obtain ⟨hE0, hEE⟩ := h
  have field_ne {m : Addr12} (hm : nnn ≠ m) : wordADDR 0x0 nnn ≠ wordADDR 0x0 m :=
    fun e => hm (by simpa using congrArg fieldNNN e)
  simpa using decodeWord_sys (family_wordADDR 0x0 nnn) (field_ne hE0) (field_ne hEE)

theorem decodeWord_encode {i : Instr} (h : i.wf = true) : decodeWord (encode i) = i := by
  cases i with
  | clear => rfl
  | ret => rfl
  | sys nnn => exact decodeWord_wordADDR_zero h
  | nop op => exact (decodeWord_eq_nop_iff op).mpr h
  | _ => simp [encode, decodeWord, decodeFamily8, decodeFamilyE, decodeFamilyF]

/-! ### The round trips -/

/-- Settles O1: each constructor's word has the family and the trailing field that select it; Sys and Nop need to be
well-formed, for their words are what the other rows leave over. -/
theorem decodeOfEncodeIsTheInstruction : Obligations.DecodeOfEncodeIsTheInstruction := by
  intro i hi
  have h : decodeWord (encode i) = i := decodeWord_encode hi
  exact ⟨h, fun rest => by rw [decode_encodeBytes, h]⟩

/-- Settles O2: every branch of the dispatch table keeps all fields of its word, and Sys and Nop get only the words
that are theirs. -/
theorem everyWordDecodesToWhatEncodesIt : Obligations.EveryWordDecodesToWhatEncodesIt :=
  fun op => ⟨encode_decodeWord op, wf_decodeWord op⟩

/-- Settles O4: the decoder's Nop branches are those of the list of 30_encoding.md R67. -/
theorem nopIsExactlyTheUnrecognisedOpcodes : Obligations.NopIsExactlyTheUnrecognisedOpcodes :=
  fun op => (decodeWord_eq_nop_iff op).trans (unrecognised_iff op)

/-- Settles O5: the eleven words, by running the decoder. -/
theorem sampleWordsDecodeAsTheSpecSays : Obligations.SampleWordsDecodeAsTheSpecSays := by
  unfold Obligations.SampleWordsDecodeAsTheSpecSays
  decide

end Sys2Proof

/-! SUPPORT. The selection among the rows of the table (30_encoding.md R64). The idea: a row that covers a word has the
mnemonic of the decoded instruction, but for the catch-all and for Sys under the two literals, and those have fewer mask
bits. A row's mnemonic is what its own pattern decodes to, and the fields under its mask decide the mnemonic. -/

namespace Sys2Proof

/-! ### The fields that decide the mnemonic -/

/-- In families E and F the trailing byte decides it. -/
theorem mnemonic_congr_byte {op p : Word} (hp : family p = 0xE ∨ family p = 0xF) (hf : family op = family p)
    (hn : fieldNN op = fieldNN p) : (decodeWord op).mnemonic = (decodeWord p).mnemonic := by
  rcases hp with h | h
  · rw [decodeWord_of_family_E h, decodeWord_of_family_E (hf.trans h), decodeFamilyE, decodeFamilyE, hn]
    repeat' split
    all_goals rfl
  · rw [decodeWord_of_family_F h, decodeWord_of_family_F (hf.trans h), decodeFamilyF, decodeFamilyF, hn]
    repeat' split
    all_goals rfl

/-- In family 8 the trailing nibble decides it. -/
theorem mnemonic_congr_nibble {op p : Word} (hp : family p = 0x8) (hf : family op = family p)
    (hn : fieldN op = fieldN p) : (decodeWord op).mnemonic = (decodeWord p).mnemonic := by
  rw [decodeWord_of_family_8 hp, decodeWord_of_family_8 (hf.trans hp), decodeFamily8, decodeFamily8, hn]
  repeat' split
  all_goals rfl

/-- In the families with one instruction the family decides it. -/
theorem mnemonic_congr_family {op p : Word} (h0 : family p ≠ 0x0) (h8 : family p ≠ 0x8) (hE : family p ≠ 0xE)
    (hF : family p ≠ 0xF) (hf : family op = family p) : (decodeWord op).mnemonic = (decodeWord p).mnemonic := by
  rcases nibble_cases (family p) with h | h | h | h | h | h | h | h | h | h | h | h | h | h | h | h
  all_goals try contradiction
  all_goals unfold decodeWord; rw [hf, h]; rfl

/-! ### The rows -/

/-- The row of Sys, which the two literals override. -/
def rowSys : Row := ⟨"Sys", 0x0000, 0xF000⟩

theorem rowsLIT_decode : ∀ q ∈ rowsLIT, q.mask = 0xFFFF ∧ (decodeWord q.pattern).mnemonic = q.mnemonic := by decide

theorem rowsXSS_decode : ∀ q ∈ rowsXSS, q.mask = 0xF0FF ∧ q.pattern = wordXNN (family q.pattern) 0 (fieldNN q.pattern) ∧
    (family q.pattern = 0xE ∨ family q.pattern = 0xF) ∧ (decodeWord q.pattern).mnemonic = q.mnemonic := by decide

theorem rowsXYS_decode : ∀ q ∈ rowsXYS, q.mask = 0xF00F ∧
    q.pattern = wordXYN (family q.pattern) 0 0 (fieldN q.pattern) ∧ family q.pattern = 0x8 ∧
    (decodeWord q.pattern).mnemonic = q.mnemonic := by decide

theorem rowsFamily_decode : ∀ q ∈ rowsFamily, q.mask = 0xF000 ∧ q.pattern = wordADDR (family q.pattern) 0 ∧
    (q = rowSys ∨ family q.pattern ≠ 0x0) ∧ family q.pattern ≠ 0x8 ∧ family q.pattern ≠ 0xE ∧ family q.pattern ≠ 0xF ∧
    (decodeWord q.pattern).mnemonic = q.mnemonic := by decide

theorem mnemonic_injOn_table : ∀ q ∈ table, ∀ r ∈ table, q.mnemonic = r.mnemonic → q = r := by decide

theorem maskBits_pos : ∀ r ∈ table, r ≠ rowNop → rowNop.maskBits < r.maskBits := by decide

theorem maskBits_literal : ∀ r ∈ table, r.mnemonic = Instr.clear.mnemonic ∨ r.mnemonic = Instr.ret.mnemonic →
    rowSys.maskBits < r.maskBits := by decide

/-- A row that covers a word has the mnemonic of the decoded instruction, but for two rows. -/
theorem mnemonic_of_covers {op : Word} {q : Row} (hq : q ∈ table) (hc : q.covers op = true) :
    q.mnemonic = (decodeWord op).mnemonic ∨ q = rowNop ∨ (q = rowSys ∧ (op = 0x00E0 ∨ op = 0x00EE)) := by
  replace hc : op &&& q.mask = q.pattern := of_decide_eq_true hc
  simp only [table, List.mem_append, List.mem_singleton] at hq
  rcases hq with (((hq | hq) | hq) | hq) | rfl
  · obtain ⟨hm, hd⟩ := rowsLIT_decode q hq
    have hop : op = q.pattern := by rw [← hc, hm]; exact (BitVec.and_allOnes).symm
    exact .inl (hop ▸ hd.symm)
  · obtain ⟨hm, hp, hf, hd⟩ := rowsXSS_decode q hq
    rw [hm, hp] at hc
    obtain ⟨h1, h2⟩ := (mask_family_byte op _ _).mp hc
    exact .inl (hd.symm.trans (mnemonic_congr_byte hf h1 h2).symm)
  · obtain ⟨hm, hp, hf, hd⟩ := rowsXYS_decode q hq
    rw [hm, hp] at hc
    obtain ⟨h1, h2⟩ := (mask_family_nibble op _ _).mp hc
    exact .inl (hd.symm.trans (mnemonic_congr_nibble hf h1 h2).symm)
  · obtain ⟨hm, hp, h0, h8, hE, hF, hd⟩ := rowsFamily_decode q hq
    rw [hm, hp] at hc
    have hf : family op = family q.pattern := (mask_family op _).mp hc
    rcases h0 with rfl | h0
    · by_cases hl : op = 0x00E0 ∨ op = 0x00EE
      · exact .inr (.inr ⟨rfl, hl⟩)
      · rw [not_or] at hl
        exact .inl (by rw [decodeWord_sys hf hl.1 hl.2]; rfl)
    · exact .inl (hd.symm.trans (mnemonic_congr_family h0 h8 hE hF hf).symm)
  · exact .inr (.inl rfl)

/-- Every instruction's word is covered by a row of its own mnemonic. -/
theorem exists_row (i : Instr) : ∃ r ∈ table, r.mnemonic = i.mnemonic ∧ r.covers (encode i) = true := by
  cases i with
  | clear => exact Laws.EncodesItsRow.clear
  | ret => exact Laws.EncodesItsRow.ret
  | sys nnn => exact Laws.EncodesItsRow.sys nnn
  | jump nnn => exact Laws.EncodesItsRow.jump nnn
  | call nnn => exact Laws.EncodesItsRow.call nnn
  | skipEqConst x nn => exact Laws.EncodesItsRow.skipEqConst x nn
  | skipNeConst x nn => exact Laws.EncodesItsRow.skipNeConst x nn
  | skipEqVal x y low => exact Laws.EncodesItsRow.skipEqVal x y low
  | loadConst x nn => exact Laws.EncodesItsRow.loadConst x nn
  | addConst x nn => exact Laws.EncodesItsRow.addConst x nn
  | loadVal x y => exact Laws.EncodesItsRow.loadVal x y
  | orVal x y => exact Laws.EncodesItsRow.orVal x y
  | andVal x y => exact Laws.EncodesItsRow.andVal x y
  | xorVal x y => exact Laws.EncodesItsRow.xorVal x y
  | addVal x y => exact Laws.EncodesItsRow.addVal x y
  | subVal x y => exact Laws.EncodesItsRow.subVal x y
  | shiftRight x y => exact Laws.EncodesItsRow.shiftRight x y
  | subValInverse x y => exact Laws.EncodesItsRow.subValInverse x y
  | shiftLeft x y => exact Laws.EncodesItsRow.shiftLeft x y
  | skipNeVal x y low => exact Laws.EncodesItsRow.skipNeVal x y low
  | loadIndex nnn => exact Laws.EncodesItsRow.loadIndex nnn
  | jumpOffset nnn => exact Laws.EncodesItsRow.jumpOffset nnn
  | random x nn => exact Laws.EncodesItsRow.random x nn
  | drawSprite x y n => exact Laws.EncodesItsRow.drawSprite x y n
  | skipKeyDown x => exact Laws.EncodesItsRow.skipKeyDown x
  | skipKeyUp x => exact Laws.EncodesItsRow.skipKeyUp x
  | getDelay x => exact Laws.EncodesItsRow.getDelay x
  | waitForNextKeyPress x => exact Laws.EncodesItsRow.waitForNextKeyPress x
  | setDelay x => exact Laws.EncodesItsRow.setDelay x
  | setSound x => exact Laws.EncodesItsRow.setSound x
  | addIndex x => exact Laws.EncodesItsRow.addIndex x
  | fontIndex x => exact Laws.EncodesItsRow.fontIndex x
  | storeBCD x => exact Laws.EncodesItsRow.storeBCD x
  | regDump x => exact Laws.EncodesItsRow.regDump x
  | regLoad x => exact Laws.EncodesItsRow.regLoad x
  | nop op => exact Laws.EncodesItsRow.nop op

/-- Settles O3: the row with the decoded mnemonic covers the word, for the word is that instruction's encoding; any
other row that covers it is the catch-all or Sys under a literal, with fewer mask bits. -/
theorem decoderSelectsTheRowWithMostMaskBits : Obligations.DecoderSelectsTheRowWithMostMaskBits := by
  intro op
  obtain ⟨r, hr, hrm, hrc⟩ := exists_row (decodeWord op)
  rw [encode_decodeWord] at hrc
  refine ⟨r, hr, hrc, hrm, fun q hq hqc hne => ?_⟩
  rcases mnemonic_of_covers hq hqc with h | rfl | ⟨rfl, rfl | rfl⟩
  · exact absurd (mnemonic_injOn_table q hq r hr (h.trans hrm.symm)) hne
  · exact maskBits_pos r hr hne.symm
  · exact maskBits_literal r hr (.inl hrm)
  · exact maskBits_literal r hr (.inr hrm)

end Sys2Proof

/-! SUPPORT. What a handler answers, from both sides: where the state has room the answer is the effect, and an answer
is the effect or a raised fault. Then which instruction's effect can change which field (10_state.md R30). -/

namespace Sys2Proof.Machine

/-! ### The answers of a handler -/

theorem skipIf_decide (p : Prop) [Decidable p] (s : State) :
    skipIf (decide p) s = .next (if p then { s with pc := s.pc + 2 } else s) := by
  by_cases h : p <;> simp [skipIf, h]

theorem skipIf_decide_not (p : Prop) [Decidable p] (s : State) :
    skipIf (decide (¬ p)) s = .next (if p then s else { s with pc := s.pc + 2 }) := by
  by_cases h : p <;> simp [skipIf, h]

theorem withIndex_ok (i : Instr) (c : Cause) {x : Nibble} {s : State} (k : Byte → Result) (h : (s.getV x).toNat ≤ 15) :
    withIndex i c x s k = k (s.getV x) := by
  rcases withIndex_cases i c x s k with h' | h'
  · omega
  · exact h'.2

/-- With room for its effect an instruction has it. -/
theorem exec_of_roomFor {i : Instr} {s : State} (h : roomFor s i) : exec i s = .next (effect s i) := by
  cases i
  case ret =>
    obtain ⟨h0, h16⟩ := h
    rcases popPC_cases s with ⟨h', e⟩ | ⟨h', -⟩
    · simp only [exec, execReturn, if_neg h0, e, effect, Vector.getElem?_eq_getElem h', Option.getD_some]
    · omega
  case call nnn => exact if_neg (Nat.not_le.mpr h)
  case nop op => simp only [roomFor] at h; simp [exec, execNop, effect, h]
  case skipEqConst x nn => exact skipIf_decide _ s
  case skipNeConst x nn => exact skipIf_decide_not _ s
  case skipEqVal x y low => exact skipIf_decide _ s
  case skipNeVal x y low => exact skipIf_decide_not _ s
  case skipKeyDown x => simp only [exec, execSkipKeyDown]; exact withIndex_ok _ _ _ h
  case skipKeyUp x =>
    simp only [exec, execSkipKeyUp, withIndex_ok _ _ _ h]
    cases hk : keyDown s (s.getV x) <;> simp [skipIf, effect, hk]
  case fontIndex x => simp only [exec, execFontIndex]; exact withIndex_ok _ _ _ h
  case storeBCD x => exact storeBlock_ok _ _ s h
  case regDump x => exact storeBlock_ok _ _ s h
  case regLoad x => simp only [exec, execRegLoad]; exact loadBlock_ok _ _ s _ (.inr h)
  case drawSprite x y n => simp only [exec, execDrawSprite]; exact loadBlock_ok _ _ s _ h
  all_goals rfl

/-- An answered next state is a fault entered for the instruction, or the instruction's effect. -/
theorem exec_next {i : Instr} {s t : State} (h : exec i s = .next t) :
    (∃ c addr, Cause.ofHandler c ∧ t = enterFault c (s.pc - 2) (encode i) addr s) ∨ (roomFor s i ∧ t = effect s i) := by
  rcases exec_cases i s with ⟨c, addr, hc, e⟩ | ⟨-, e⟩ | ⟨hroom, e⟩
  · rw [e, raise_eq, Host.Outcome.next.injEq] at h
    exact .inl ⟨c, addr, hc, h.symm⟩
  · rw [e] at h; cases h
  · rw [e, Host.Outcome.next.injEq] at h
    exact .inr ⟨hroom, h.symm⟩

/-! ### Fields that no effect changes -/

theorem effect_key (s : State) (i : Instr) : (effect s i).key = s.key := by
  cases i <;> simp [effect, apply_ite State.key]

theorem effect_strict (s : State) (i : Instr) : (effect s i).strict = s.strict := by
  cases i <;> simp [effect, apply_ite State.strict]

theorem effect_events (s : State) (i : Instr) : (effect s i).events = s.events := by
  cases i <;> simp [effect, apply_ite State.events]

theorem effect_beeps (s : State) (i : Instr) : (effect s i).beeps = s.beeps := by
  cases i <;> simp [effect, apply_ite State.beeps]

theorem effect_fault (s : State) (i : Instr) : (effect s i).fault = s.fault := by
  cases i <;> simp [effect, apply_ite State.fault]

/-! ### Fields with their writers -/

theorem effect_mem_ne {s : State} {i : Instr} (h : (effect s i).mem ≠ s.mem) :
    ∃ x, i = .storeBCD x ∨ i = .regDump x := by
  cases i
  case storeBCD x => exact ⟨x, .inl rfl⟩
  case regDump x => exact ⟨x, .inr rfl⟩
  all_goals simp [effect, apply_ite State.mem] at h

theorem effect_fb_ne {s : State} {i : Instr} (h : (effect s i).fb ≠ s.fb) :
    i = .clear ∨ ∃ x y n, i = .drawSprite x y n := by
  cases i
  case clear => exact .inl rfl
  case drawSprite x y n => exact .inr ⟨x, y, n, rfl⟩
  all_goals simp [effect, apply_ite State.fb] at h

theorem effect_draw_ne {s : State} {i : Instr} (h : (effect s i).draw ≠ s.draw) :
    (effect s i).draw = true ∧ ∃ x y n, i = .drawSprite x y n := by
  cases i
  case drawSprite x y n => exact ⟨rfl, x, y, n, rfl⟩
  all_goals simp [effect, apply_ite State.draw] at h

theorem effect_i_ne {s : State} {i : Instr} (h : (effect s i).i ≠ s.i) :
    (∃ nnn, i = .loadIndex nnn) ∨ ∃ x, i = .addIndex x ∨ i = .fontIndex x := by
  cases i
  case loadIndex nnn => exact .inl ⟨nnn, rfl⟩
  case addIndex x => exact .inr ⟨x, .inl rfl⟩
  case fontIndex x => exact .inr ⟨x, .inr rfl⟩
  all_goals simp [effect, apply_ite State.i] at h

theorem effect_sp_ne {s : State} {i : Instr} (h : (effect s i).sp ≠ s.sp) : i = .ret ∨ ∃ nnn, i = .call nnn := by
  cases i
  case ret => exact .inl rfl
  case call nnn => exact .inr ⟨nnn, rfl⟩
  all_goals simp [effect, apply_ite State.sp] at h

theorem effect_stack_ne {s : State} {i : Instr} (h : (effect s i).stack ≠ s.stack) : ∃ nnn, i = .call nnn := by
  cases i
  case call nnn => exact ⟨nnn, rfl⟩
  all_goals simp [effect, apply_ite State.stack] at h

theorem effect_dt_ne {s : State} {i : Instr} (h : (effect s i).dt ≠ s.dt) : ∃ x, i = .setDelay x := by
  cases i
  case setDelay x => exact ⟨x, rfl⟩
  all_goals simp [effect, apply_ite State.dt] at h

theorem effect_st_ne {s : State} {i : Instr} (h : (effect s i).st ≠ s.st) : ∃ x, i = .setSound x := by
  cases i
  case setSound x => exact ⟨x, rfl⟩
  all_goals simp [effect, apply_ite State.st] at h

theorem effect_waitReg_ne {s : State} {i : Instr} (h : (effect s i).waitReg ≠ s.waitReg) :
    ∃ x, i = .waitForNextKeyPress x := by
  cases i
  case waitForNextKeyPress x => exact ⟨x, rfl⟩
  all_goals simp [effect, apply_ite State.waitReg] at h

theorem effect_run_ne {s : State} {i : Instr} (h : (effect s i).run ≠ s.run) :
    (effect s i).run = .waitingForKey ∧ i = .waitForNextKeyPress (effect s i).waitReg := by
  cases i
  case waitForNextKeyPress x => exact ⟨rfl, rfl⟩
  all_goals simp [effect, apply_ite State.run] at h

theorem effect_draws_of_ne {s : State} {i : Instr} (h : ∀ x nn, i ≠ .random x nn) : (effect s i).draws = s.draws := by
  cases i
  case random x nn => exact absurd rfl (h x nn)
  all_goals simp [effect, apply_ite State.draws]

/-! ### The writers of PC -/

/-- A skip whose condition is `c` adds 2 to PC where `c` holds and does nothing else (41_skips.md R116). -/
theorem effect_of_skipCondition {s : State} {i : Instr} {c : Bool} (h : skipCondition s i = some c) :
    effect s i = { s with pc := if c then s.pc + 2 else s.pc } := by
  cases i
  case skipEqConst x nn => obtain rfl := Option.some.inj h; by_cases e : s.getV x = nn <;> simp [effect, e]
  case skipNeConst x nn => obtain rfl := Option.some.inj h; by_cases e : s.getV x = nn <;> simp [effect, e]
  case skipEqVal x y low => obtain rfl := Option.some.inj h; by_cases e : s.getV x = s.getV y <;> simp [effect, e]
  case skipNeVal x y low => obtain rfl := Option.some.inj h; by_cases e : s.getV x = s.getV y <;> simp [effect, e]
  case skipKeyDown x =>
    have hk : keyDown s (s.getV x) = c := congrArg (·.getD false) h
    cases c <;> simp [effect, hk]
  case skipKeyUp x =>
    obtain ⟨b, hb, rfl⟩ := Option.map_eq_some_iff.mp h
    have hk : keyDown s (s.getV x) = b := congrArg (·.getD false) hb
    cases b <;> simp [effect, hk]
  all_goals cases h

/-- A skip with a condition has room: a key skip has one only for an index up to 15. -/
theorem roomFor_of_skipCondition {s : State} {i : Instr} {c : Bool} (h : skipCondition s i = some c) : roomFor s i := by
  have index_le {k : Nat} {b : Bool} (hk : s.key[k]? = some b) : k ≤ 15 := by
    obtain ⟨hlt, -⟩ := Vector.getElem?_eq_some_iff.mp hk
    omega
  cases i
  case skipKeyDown x => exact index_le h
  case skipKeyUp x =>
    obtain ⟨b, hb, -⟩ := Option.map_eq_some_iff.mp h
    exact index_le hb
  case skipEqConst | skipNeConst | skipEqVal | skipNeVal => trivial
  all_goals cases h

theorem exec_of_skipCondition {s : State} {i : Instr} {c : Bool} (h : skipCondition s i = some c) :
    exec i s = .next { s with pc := if c then s.pc + 2 else s.pc } := by
  rw [exec_of_roomFor (roomFor_of_skipCondition h), effect_of_skipCondition h]

/-- A skip that moves PC is taken. -/
theorem taken_of_pc_ne {s : State} {i : Instr} {c : Bool} (h : skipCondition s i = some c)
    (hpc : (effect s i).pc ≠ s.pc) : skipCondition s i = some true ∧ effect s i = { s with pc := s.pc + 2 } := by
  have he := effect_of_skipCondition h
  cases c
  · rw [he] at hpc; exact absurd rfl hpc
  · exact ⟨h, he⟩

/-- Nothing but a taken skip, a Return, a jump and a Call moves PC (10_state.md R13). -/
theorem effect_pc_ne {s : State} {i : Instr} (hroom : roomFor s i) (h : (effect s i).pc ≠ s.pc) :
    (skipCondition s i = some true ∧ effect s i = { s with pc := s.pc + 2 }) ∨
    i = .ret ∨ ∃ nnn, i = .jump nnn ∨ i = .call nnn ∨ i = .jumpOffset nnn := by
  have key_eq {k : Nat} (hk : k ≤ 15) : s.key[k]? = some (s.key[k]'(by omega)) := Vector.getElem?_eq_getElem _
  cases i
  case ret => exact .inr (.inl rfl)
  case jump nnn => exact .inr (.inr ⟨nnn, .inl rfl⟩)
  case call nnn => exact .inr (.inr ⟨nnn, .inr (.inl rfl)⟩)
  case jumpOffset nnn => exact .inr (.inr ⟨nnn, .inr (.inr rfl)⟩)
  case skipEqConst | skipNeConst | skipEqVal | skipNeVal => exact .inl (taken_of_pc_ne rfl h)
  case skipKeyDown x => exact .inl (taken_of_pc_ne (key_eq hroom) h)
  case skipKeyUp x => exact .inl (taken_of_pc_ne (congrArg (Option.map (!·)) (key_eq hroom)) h)
  all_goals simp [effect, apply_ite State.pc] at h

/-! ### The writers of V -/

theorem getV_eq_of_v_eq {s t : State} (h : t.v = s.v) (y : Nibble) : t.getV y = s.getV y := by
  simp only [State.getV, h]

theorem eq_of_getV_setV_ne {s : State} {x y : Nibble} {b : Byte} (h : (s.setV x b).getV y ≠ s.getV y) : y = x := by
  by_contra hne
  exact h (getV_setV_ne s b hne)

theorem eq_of_getV_setVFlag_ne {s : State} {x y : Nibble} {b : Byte} {f : Bool}
    (h : (s.setVFlag x b f).getV y ≠ s.getV y) : y = x ∨ y = regF := by
  by_contra hne
  rw [not_or] at hne
  exact h (getV_setVFlag_other s b f hne.1 hne.2)

theorem mem_destinations_regLoad {x y : Nibble} : y ∈ destinations (.regLoad x) ↔ y.toNat ≤ x.toNat := by
  have hx := x.isLt
  simp only [destinations, List.mem_map, List.mem_range]
  constructor
  · rintro ⟨k, hk, rfl⟩
    rw [BitVec.toNat_ofNat, Nat.mod_eq_of_lt (by omega)]; omega
  · exact fun h => ⟨y.toNat, by omega, by simp⟩

/-- A register that an effect changes is among the instruction's destinations (10_state.md R11, R30). -/
theorem mem_destinations_of_getV_ne {s : State} {i : Instr} {y : Nibble} (h : (effect s i).getV y ≠ s.getV y) :
    y ∈ destinations i := by
  cases i
  case loadConst | addConst | loadVal | orVal | andVal | xorVal | getDelay | random =>
    exact List.mem_singleton.mpr (eq_of_getV_setV_ne h)
  case drawSprite x z n => exact List.mem_singleton.mpr (eq_of_getV_setV_ne h)
  case subVal | subValInverse | shiftRight | shiftLeft => simpa [destinations] using eq_of_getV_setVFlag_ne h
  case addVal x z =>
    simp only [effect] at h
    split at h
    · simpa [destinations] using eq_of_getV_setVFlag_ne h
    · simp [destinations, eq_of_getV_setV_ne h]
  case regLoad x =>
    rw [mem_destinations_regLoad]
    by_contra hlt
    exact h ((getV_loadRegs s x y _).trans (if_neg hlt))
  all_goals exact absurd (getV_eq_of_v_eq (by simp [effect, apply_ite State.v]) y) h

end Sys2Proof.Machine

/-! SUPPORT. Everything an event can answer, said once: the inversions that the statements over every step go
through. -/

namespace Sys2Proof.Machine

theorem keyEvent_next {k : Nat} {u t : State} (h : keyEvent k u = .next t) : k ≤ 15 ∧ t = u := by
  unfold keyEvent at h
  split_ifs at h
  exact ⟨by omega, (Host.Outcome.next.inj h).symm⟩

theorem resetEvent_next {rom font : List Byte} {b : Bool} {s t : State} (h : resetEvent rom font b s = .next t) :
    rom.length ≤ 3584 ∧ font.length = 80 ∧ t = resetWith rom font b s := by
  unfold resetEvent at h
  split_ifs at h with h1 h2
  exact ⟨by omega, not_not.mp h2, (Host.Outcome.next.inj h).symm⟩

theorem resetEvent_ok {rom font : List Byte} (b : Bool) (s : State) (hrom : rom.length ≤ 3584)
    (hfont : font.length = 80) : resetEvent rom font b s = .next (resetWith rom font b s) := by
  rw [resetEvent, if_neg (by omega), if_neg (by omega)]

/-- A Timer tick, a key event, a DrawAck, a Stop and a Reset are one update each; only a CPU tick is more. -/
theorem handleEvent_next {e : Event} {s t : State} (h : handleEvent e s = .next t) :
    (e = .cpuTick ∧ cpuTick s = .next t) ∨
    (e = .timerTick ∧ t = timerTick s) ∨
    (∃ k ≤ 15, e = .keyDown k ∧ t = keyDownEvent k s) ∨
    (∃ k ≤ 15, e = .keyUp k ∧ t = keyUpEvent k s) ∨
    (e = .drawAck ∧ t = drawAckEvent s) ∨
    (e = .stop ∧ t = stopEvent s) ∨
    (∃ rom font b, rom.length ≤ 3584 ∧ font.length = 80 ∧ e = .reset rom font b ∧ t = resetWith rom font b s) := by
  cases e with
  | cpuTick => exact .inl ⟨rfl, h⟩
  | timerTick => exact .inr (.inl ⟨rfl, (Host.Outcome.next.inj h).symm⟩)
  | keyDown k =>
    obtain ⟨hk, ht⟩ := keyEvent_next h
    exact .inr (.inr (.inl ⟨k, hk, rfl, ht⟩))
  | keyUp k =>
    obtain ⟨hk, ht⟩ := keyEvent_next h
    exact .inr (.inr (.inr (.inl ⟨k, hk, rfl, ht⟩)))
  | drawAck => exact .inr (.inr (.inr (.inr (.inl ⟨rfl, (Host.Outcome.next.inj h).symm⟩))))
  | stop => exact .inr (.inr (.inr (.inr (.inr (.inl ⟨rfl, (Host.Outcome.next.inj h).symm⟩)))))
  | reset rom font b =>
    obtain ⟨hrom, hfont, ht⟩ := resetEvent_next h
    exact .inr (.inr (.inr (.inr (.inr (.inr ⟨rom, font, b, hrom, hfont, rfl, ht⟩)))))

/-- What a tick answers where it fetches: the handler's answer, checked (60_exceptions.md R205, R206). -/
def TickAnswer (s u t : State) : Prop :=
  (u.run = .halted ∧ t = u) ∨
  (u.run ≠ .halted ∧ t = enterFault .pcOutOfRange s.pc (fetchWord s.mem s.pc.toNat) u.pc u) ∨
  (u.run ≠ .halted ∧ 0x200 ≤ u.pc.toNat ∧ u.pc.toNat ≤ 4095 ∧ t = u)

/-- A CPU tick is ignored unless Running, fails to fetch, or runs the fetched instruction and checks PC. -/
theorem cpuTick_next {s t : State} (h : cpuTick s = .next t) :
    (s.run ≠ .running ∧ t = s) ∨
    (s.run = .running ∧ ∃ c addr, c ≠ .none ∧ t = enterFault c s.pc 0 addr s) ∨
    (s.run = .running ∧ 0x200 ≤ s.pc.toNat ∧ s.pc.toNat ≤ 4094 ∧
      ∃ u, exec (decodeWord (fetchWord s.mem s.pc.toNat)) { s with pc := s.pc + 2 } = .next u ∧ TickAnswer s u t) := by
  rcases cpuTick_cases s with ⟨hr, e⟩ | ⟨hr, -, e⟩ | ⟨hr, -, e⟩ | ⟨hr, h1, h2, e⟩ <;> rw [e] at h
  · exact .inl ⟨hr, (Host.Outcome.next.inj h).symm⟩
  · exact .inr (.inl ⟨hr, _, _, by decide, (Host.Outcome.next.inj h).symm⟩)
  · exact .inr (.inl ⟨hr, _, _, by decide, (Host.Outcome.next.inj h).symm⟩)
  · obtain ⟨u, hu, ht⟩ := afterHandler_next h
    refine .inr (.inr ⟨hr, h1, h2, u, hu, ht.imp_right (Or.imp ?_ ?_)⟩)
    · rintro ⟨hrun, -, rfl⟩; exact ⟨hrun, rfl⟩
    · rintro ⟨hrun, hpc, rfl⟩
      have := mt (pcOutOfRange_iff t.pc).mpr (by simp [hpc])
      exact ⟨hrun, by omega, by omega, rfl⟩

/-! ### What an event leaves unchanged -/

/-- Both answers of a tick after a handler that answers `u` agree with `u` but for RUN and FAULT. -/
theorem TickAnswer.eq_but_run_fault {s u t : State} (h : TickAnswer s u t) :
    t = { u with run := t.run, fault := t.fault } := by
  rcases h with ⟨-, rfl⟩ | ⟨-, rfl⟩ | ⟨-, -, -, rfl⟩ <;> rfl

theorem timerTick_of_running {s : State} (h : s.run = .running) :
    timerTick s = { s with
      dt := countDown s.dt
      st := countDown s.st
      beeps := if s.st = 1 then s.beeps + 1 else s.beeps } := by
  rw [timerTick, if_neg (not_not.mpr h)]

theorem timerTick_of_not_running {s : State} (h : s.run ≠ .running) : timerTick s = s := by
  rw [timerTick, if_pos h]

theorem keyDownEvent_of_waiting {k : Nat} {s : State} (h : s.run = .waitingForKey) :
    keyDownEvent k s =
      { s.setV s.waitReg (BitVec.ofNat 8 k) with key := s.key.setIfInBounds k true, run := .running } := by
  rw [keyDownEvent, if_pos h]; rfl

theorem keyDownEvent_of_not_waiting {k : Nat} {s : State} (h : s.run ≠ .waitingForKey) :
    keyDownEvent k s = { s with key := s.key.setIfInBounds k true } := by
  rw [keyDownEvent, if_neg h]

theorem stopEvent_of_halted {s : State} (h : s.run = .halted) : stopEvent s = s := by
  rw [stopEvent, if_pos h]

theorem stopEvent_of_not_halted {s : State} (h : s.run ≠ .halted) : stopEvent s = enterFault .stopped s.pc 0 0 s := by
  rw [stopEvent, if_neg h]

end Sys2Proof.Machine

/-! SUPPORT. The invariant (10_state.md R27). The idea: between the fetch and the PC check PC may stand at 4096, so the
invariant without its PC clause is what a handler keeps; the check, or the fault, restores the clause. -/

namespace Sys2Proof.Machine

/-! ### The invariant without its PC clause -/

/-- `State.Inv` but for the range of PC. -/
structure State.InvButPc (s : State) : Prop where
  mem : Memory.wf s.mem = true
  sp : s.sp.toNat ≤ 15
  stack : s.stackOk
  entry15 : s.stack[15] = 0
  fault : s.run = .halted ↔ s.fault.cause ≠ .none

theorem State.Inv.butPc {s : State} (h : s.Inv) : s.InvButPc := ⟨h.mem, h.sp, h.stack, h.entry15, h.fault⟩

theorem State.InvButPc.inv {s : State} (h : s.InvButPc)
    (hpc : s.run ≠ .halted → 0x200 ≤ s.pc.toNat ∧ s.pc.toNat ≤ 4095) : s.Inv :=
  ⟨h.mem, h.sp, h.stack, h.entry15, hpc, h.fault⟩

/-- The invariant looks at memory, SP, STACK, PC, FAULT and at whether RUN is Halted, and at nothing else. -/
theorem State.Inv.congr {s t : State} (h : s.Inv) (hmem : t.mem = s.mem) (hsp : t.sp = s.sp)
    (hstack : t.stack = s.stack) (hpc : t.pc = s.pc) (hfault : t.fault = s.fault)
    (hrun : t.run = .halted ↔ s.run = .halted) : t.Inv where
  mem := hmem ▸ h.mem
  sp := hsp ▸ h.sp
  stack := by simpa only [State.stackOk, hsp, hstack] using h.stack
  entry15 := by simpa only [hstack] using h.entry15
  pc := by simpa only [ne_eq, hrun, hpc] using h.pc
  fault := by simpa only [hrun, hfault] using h.fault

/-- A fault entry for a real cause meets the invariant wherever PC stands. -/
theorem inv_enterFault {s : State} (h : s.InvButPc) {c : Cause} (hc : c ≠ .none) (a op addr : Word) :
    (enterFault c a op addr s).Inv where
  mem := h.mem
  sp := h.sp
  stack := h.stack
  entry15 := h.entry15
  pc := fun hne => absurd rfl hne
  fault := iff_of_true rfl (enterFault_reports c a op addr s hc)

/-! ### The effects, clause by clause -/

theorem wf_effect {s : State} {i : Instr} (h : Memory.wf s.mem = true) (hroom : roomFor s i) :
    Memory.wf (effect s i).mem = true := by
  by_cases hm : (effect s i).mem = s.mem
  · rw [hm]; exact h
  · obtain ⟨x, rfl | rfl⟩ := effect_mem_ne hm
    · exact wf_putBytes _ h _ hroom
    · exact wf_putBytes _ h _ hroom

theorem toNat_sub_one {w : Word} (h : w ≠ 0) : (w - 1).toNat = w.toNat - 1 := by
  bv_omega

theorem sp_effect {s : State} {i : Instr} (h : s.sp.toNat ≤ 15) (hroom : roomFor s i) : (effect s i).sp.toNat ≤ 15 := by
  by_cases hm : (effect s i).sp = s.sp
  · rw [hm]; exact h
  · obtain rfl | ⟨nnn, rfl⟩ := effect_sp_ne hm
    · have := toNat_sub_one hroom.1
      simp only [effect]; omega
    · simp only [roomFor] at hroom
      simp only [effect]; bv_omega

/-- Call pushes the PC after it, which the fetch left in 0x202 to 4096; Return only shortens the stack. -/
theorem stackOk_effect {s : State} {i : Instr} (h : s.stackOk) (hpc : 0x202 ≤ s.pc.toNat ∧ s.pc.toNat ≤ 4096)
    (hroom : roomFor s i) : (effect s i).stackOk := by
  cases i
  case ret =>
    intro k hk
    have := toNat_sub_one hroom.1
    simp only [effect] at hk
    exact h k (by omega)
  case call nnn =>
    intro k hk
    simp only [roomFor] at hroom
    simp only [effect, Fin.getElem_fin] at hk ⊢
    rw [Vector.getElem_setIfInBounds]
    split_ifs with he
    · exact hpc
    · exact h k (by bv_omega)
  all_goals
    intro k hk
    simp only [effect, apply_ite State.sp, apply_ite State.stack, ite_self, setV_sp, setV_stack, setVFlag_sp,
      setVFlag_stack] at hk ⊢
    exact h k hk

theorem entry15_effect {s : State} {i : Instr} (h : s.stack[15] = 0) (hroom : roomFor s i) :
    (effect s i).stack[15] = 0 := by
  by_cases hm : (effect s i).stack = s.stack
  · simpa only [hm] using h
  · obtain ⟨nnn, rfl⟩ := effect_stack_ne hm
    simp only [roomFor] at hroom
    simp only [effect]
    rw [Vector.getElem_setIfInBounds, if_neg (by omega), h]

theorem run_effect_ne_halted {s : State} (i : Instr) (h : s.run ≠ .halted) : (effect s i).run ≠ .halted := by
  by_cases hm : (effect s i).run = s.run
  · rw [hm]; exact h
  · rw [(effect_run_ne hm).1]; decide

theorem invButPc_effect {s : State} {i : Instr} (h : s.InvButPc) (hrun : s.run = .running)
    (hpc : 0x202 ≤ s.pc.toNat ∧ s.pc.toNat ≤ 4096) (hroom : roomFor s i) : (effect s i).InvButPc where
  mem := wf_effect h.mem hroom
  sp := sp_effect h.sp hroom
  stack := stackOk_effect h.stack hpc hroom
  entry15 := entry15_effect h.entry15 hroom
  fault := by
    have hne : s.run ≠ .halted := by rw [hrun]; decide
    rw [effect_fault, ← h.fault]
    exact iff_of_false (run_effect_ne_halted i hne) hne

/-! ### The events -/

/-- What a handler answers meets the invariant but for PC, and the whole of it once Halted. -/
theorem invButPc_exec {i : Instr} {s t : State} (h : s.InvButPc) (hrun : s.run = .running)
    (hpc : 0x202 ≤ s.pc.toNat ∧ s.pc.toNat ≤ 4096) (he : exec i s = .next t) : t.InvButPc := by
  obtain ⟨c, addr, hc, rfl⟩ | ⟨hroom, rfl⟩ := exec_next he
  · exact (inv_enterFault h hc.1 _ _ _).butPc
  · exact invButPc_effect h hrun hpc hroom

theorem inv_tickAnswer {s u t : State} (h : u.InvButPc) (ht : TickAnswer s u t) : t.Inv := by
  obtain ⟨hrun, rfl⟩ | ⟨-, rfl⟩ | ⟨-, h1, h2, rfl⟩ := ht
  · exact h.inv fun hne => absurd hrun hne
  · exact inv_enterFault h (by decide) _ _ _
  · exact h.inv fun _ => ⟨h1, h2⟩

theorem inv_cpuTick {s t : State} (h : s.Inv) (ht : cpuTick s = .next t) : t.Inv := by
  obtain ⟨-, rfl⟩ | ⟨-, c, addr, hc, rfl⟩ | ⟨hrun, h1, h2, u, hu, hans⟩ := cpuTick_next ht
  · exact h
  · exact inv_enterFault h.butPc hc _ _ _
  · have hpc : (s.pc + 2).toNat = s.pc.toNat + 2 := by bv_omega
    have hfetched : State.InvButPc { s with pc := s.pc + 2 } := ⟨h.mem, h.sp, h.stack, h.entry15, h.fault⟩
    exact inv_tickAnswer (invButPc_exec hfetched hrun (by simp only [hpc]; omega) hu) hans

theorem inv_timerTick {s : State} (h : s.Inv) : (timerTick s).Inv := by
  by_cases hr : s.run = .running
  · rw [timerTick_of_running hr]; exact h.congr rfl rfl rfl rfl rfl .rfl
  · rw [timerTick_of_not_running hr]; exact h

theorem inv_keyDownEvent {s : State} (k : Nat) (h : s.Inv) : (keyDownEvent k s).Inv := by
  by_cases hw : s.run = .waitingForKey
  · rw [keyDownEvent_of_waiting hw]; exact h.congr rfl rfl rfl rfl rfl (by simp [hw])
  · rw [keyDownEvent_of_not_waiting hw]; exact h.congr rfl rfl rfl rfl rfl .rfl

theorem inv_stopEvent {s : State} (h : s.Inv) : (stopEvent s).Inv := by
  by_cases hh : s.run = .halted
  · rw [stopEvent_of_halted hh]; exact h
  · rw [stopEvent_of_not_halted hh]; exact inv_enterFault h.butPc (by decide) _ _ _

theorem wf_resetWith_mem {rom font : List Byte} (b : Bool) (s : State) (hrom : rom.length ≤ 3584)
    (hfont : font.length = 80) : Memory.wf (resetWith rom font b s).mem = true :=
  wf_putBytes rom (wf_putBytes font rfl _ (by omega)) _ (by omega)

theorem inv_reset : State.reset.Inv where
  mem := rfl
  sp := by decide
  stack := fun k hk => absurd hk (Nat.not_lt_zero _)
  entry15 := by decide
  pc := fun _ => by decide
  fault := by decide

/-- Reset leaves the registers of the reset state and a canonical memory. -/
theorem inv_resetWith {rom font : List Byte} (b : Bool) (s : State) (hrom : rom.length ≤ 3584)
    (hfont : font.length = 80) : (resetWith rom font b s).Inv where
  mem := wf_resetWith_mem b s hrom hfont
  sp := inv_reset.sp
  stack := inv_reset.stack
  entry15 := inv_reset.entry15
  pc := inv_reset.pc
  fault := inv_reset.fault

theorem inv_handleEvent {e : Event} {s t : State} (h : s.Inv) (ht : handleEvent e s = .next t) : t.Inv := by
  rcases handleEvent_next ht with ⟨-, ht⟩ | ⟨-, rfl⟩ | ⟨k, -, -, rfl⟩ | ⟨k, -, -, rfl⟩ | ⟨-, rfl⟩ | ⟨-, rfl⟩ |
    ⟨rom, font, b, hrom, hfont, -, rfl⟩
  · exact inv_cpuTick h ht
  · exact inv_timerTick h
  · exact inv_keyDownEvent k h
  · exact h.congr rfl rfl rfl rfl rfl .rfl
  · exact h.congr rfl rfl rfl rfl rfl .rfl
  · exact inv_stopEvent h
  · exact inv_resetWith b s hrom hfont

/-! ### The statements -/

/-- Settles O54: the queue is not in the invariant, and every event keeps it. -/
theorem everyStepKeepsTheInvariant : Obligations.EveryStepKeepsTheInvariant := by
  intro s t h ht
  rw [step_eq] at ht
  have hdrop : (dropEvent s).Inv := h.congr rfl rfl rfl rfl rfl .rfl
  exact inv_handleEvent hdrop ht

/-- Settles O53: the reset state's stack is empty, its memory lists nothing, and it runs with no report. -/
theorem resetMeetsTheInvariant : Obligations.ResetMeetsTheInvariant := inv_reset

/-- Settles O55, by induction on the events that reach the state. -/
theorem everyReachableStateMeetsTheInvariant : Obligations.EveryReachableStateMeetsTheInvariant := by
  intro s h
  induction h with
  | reset => exact inv_reset
  | event e _ ht ih => exact inv_handleEvent ih ht

/-! ### Progress -/

/-- With SP at most 15 every instruction answers a next state: the model's one stop is above 16. -/
theorem exec_next_of_sp_le (i : Instr) {s : State} (h : s.sp.toNat ≤ 15) : ∃ t, exec i s = .next t := by
  rcases exec_cases i s with ⟨c, addr, -, e⟩ | ⟨rfl, e⟩ | ⟨-, e⟩
  · exact ⟨_, e⟩
  · by_cases h0 : s.sp = 0
    · exact ⟨_, if_pos h0⟩
    · have := toNat_sub_one h0
      exact ⟨_, exec_of_roomFor (i := .ret) ⟨h0, by omega⟩⟩
  · exact ⟨_, e⟩

theorem afterHandler_of_next (a op : Word) (u : State) : ∃ t, afterHandler a op (.next u) = .next t := by
  simp only [afterHandler]
  split_ifs <;> exact ⟨_, rfl⟩

theorem cpuTick_progress {s : State} (h : s.sp.toNat ≤ 15) : ∃ t, cpuTick s = .next t := by
  rcases cpuTick_cases s with ⟨-, e⟩ | ⟨-, -, e⟩ | ⟨-, -, e⟩ | ⟨-, -, -, e⟩
  · exact ⟨_, e⟩
  · exact ⟨_, e⟩
  · exact ⟨_, e⟩
  · obtain ⟨u, hu⟩ := exec_next_of_sp_le (s := { s with pc := s.pc + 2 }) (decodeWord (fetchWord s.mem s.pc.toNat)) h
    rw [e, hu]
    exact afterHandler_of_next _ _ u

/-- Settles O56: a CPU tick answers a next state for SP is at most 15, and every other event is total but for the
refusals by name. -/
theorem invariantStatesAlwaysStep : Obligations.InvariantStatesAlwaysStep := by
  intro s hinv
  rw [step_eq]
  cases nextEvent s with
  | cpuTick => exact .inl (cpuTick_progress hinv.sp)
  | timerTick => exact .inl ⟨_, rfl⟩
  | keyDown k =>
    by_cases hk : 15 < k
    · exact .inr (.inl ⟨k, hk, .inl rfl, if_pos hk⟩)
    · exact .inl ⟨_, if_neg hk⟩
  | keyUp k =>
    by_cases hk : 15 < k
    · exact .inr (.inl ⟨k, hk, .inr rfl, if_pos hk⟩)
    · exact .inl ⟨_, if_neg hk⟩
  | drawAck => exact .inl ⟨_, rfl⟩
  | stop => exact .inl ⟨_, rfl⟩
  | reset rom font b =>
    by_cases hrom : 3584 < rom.length
    · exact .inr (.inr ⟨rom, font, b, rfl, .inl ⟨hrom, if_pos hrom⟩⟩)
    · by_cases hfont : font.length = 80
      · exact .inl ⟨_, resetEvent_ok b _ (by omega) hfont⟩
      · exact .inr (.inr ⟨rom, font, b, rfl, .inr ⟨by omega, hfont, (if_neg hrom).trans (if_pos hfont)⟩⟩)

/-- Settles O57: what Return pops is a live return address, 0x202 to 4096. -/
theorem returnLeavesTheRangeOnlyWithPopped4096 : Obligations.ReturnLeavesTheRangeOnlyWithPopped4096 := by
  intro s t hinv hsp ht hpc
  obtain ⟨k, hk⟩ : ∃ k, s.sp.toNat = k + 1 := ⟨s.sp.toNat - 1, by omega⟩
  have hk16 : k < 16 := by have := hinv.sp; omega
  obtain ⟨hpop, -⟩ := popPC_of_sp s k hk16 hk
  have hne : s.sp ≠ 0 := by bv_omega
  rw [exec, execReturn, if_neg hne, hpop, Host.Outcome.next.injEq] at ht
  subst ht
  have hlive := hinv.stack ⟨k, hk16⟩ (by simp only; omega)
  simp only [Fin.getElem_fin] at hlive hpc ⊢
  omega

end Sys2Proof.Machine

/-! SUPPORT. The whole-machine rules of the handlers: what each element's writers are, what a fault leaves unchanged,
which instructions cannot fault (10_state.md R30, 60_exceptions.md R201 to R204). -/

namespace Sys2Proof.Machine

/-! ### Fields that no handler's answer changes -/

/-- A handler keeps an earlier report: its effect has no fault, and a fault entry keeps it (10_state.md R26). -/
theorem exec_keeps_report {i : Instr} {s t : State} (h : exec i s = .next t) (hs : s.fault.cause ≠ .none) :
    t.fault = s.fault := by
  obtain ⟨c, addr, -, rfl⟩ | ⟨-, rfl⟩ := exec_next h
  · exact enterFault_keeps_report _ _ _ _ s hs
  · exact effect_fault s i

theorem exec_beeps {i : Instr} {s t : State} (h : exec i s = .next t) : t.beeps = s.beeps := by
  obtain ⟨c, addr, -, rfl⟩ | ⟨-, rfl⟩ := exec_next h
  · rfl
  · exact effect_beeps s i

/-! ### The statements -/

/-- Settles O9: an effect leaves FAULT, so the answer is a fault entry, and it wrote its report. -/
theorem faultingHandlerWritesNothing : Obligations.FaultingHandlerWritesNothing := by
  intro i s t h hne
  obtain ⟨c, addr, ⟨h0, h1, h2⟩, rfl⟩ | ⟨-, rfl⟩ := exec_next h
  · have hs : s.fault.cause = .none := by
      by_contra hs
      exact hne (enterFault_keeps_report _ _ _ _ s hs)
    rw [enterFault_writes_report _ _ _ _ s hs]
    exact ⟨by rw [enterFault, if_pos hs], rfl, rfl, h0, h1, h2⟩
  · exact absurd (effect_fault s i) hne

/-- Settles O36: a fault takes no draw, Random's effect one, every other effect none. -/
theorem onlyRandomTakesADraw : Obligations.OnlyRandomTakesADraw := by
  intro i s t h
  refine ⟨?_, fun hne => ?_⟩
  · rintro ⟨x, nn, rfl⟩
    obtain rfl := Host.Outcome.next.inj h
    rfl
  · obtain ⟨c, addr, -, rfl⟩ | ⟨-, rfl⟩ := exec_next h
    · rfl
    · exact effect_draws_of_ne hne

/-- Settles O49: a fault writes no register, and an effect its destinations. -/
theorem registersChangeOnlyAsDestinations : Obligations.RegistersChangeOnlyAsDestinations := by
  intro i s t y h hne
  obtain ⟨c, addr, -, rfl⟩ | ⟨-, rfl⟩ := exec_next h
  · exact absurd rfl hne
  · exact mem_destinations_of_getV_ne hne

theorem destinations_ne_nil_of_v_ne {s : State} {i : Instr} (h : (effect s i).v ≠ s.v) : destinations i ≠ [] := by
  obtain ⟨y, hy⟩ : ∃ y, (effect s i).getV y ≠ s.getV y := by
    by_contra hall
    exact h (v_ext (by simpa using hall))
  exact List.ne_nil_of_mem (mem_destinations_of_getV_ne hy)

/-- Settles O48: a fault entry writes RUN and FAULT alone; the effects' writers are said field by field above. -/
theorem eachElementHasOnlyItsWriters : Obligations.EachElementHasOnlyItsWriters := by
  intro i s t h
  obtain ⟨c, addr, hc, rfl⟩ | ⟨hroom, rfl⟩ := exec_next h
  · have hreport := enterFault_reports c (s.pc - 2) (encode i) addr s hc.1
    have kept {P : Prop} {α : Type} {a : α} : a ≠ a → P := fun hne => absurd rfl hne
    exact ⟨kept, kept, kept, kept, kept, kept, kept, kept, kept, kept, kept, fun _ => .inr ⟨rfl, hreport⟩,
      fun _ => ⟨rfl, hreport⟩, kept, rfl, rfl, rfl, rfl⟩
  · refine ⟨effect_mem_ne, effect_fb_ne, effect_draw_ne, effect_i_ne, effect_sp_ne, effect_stack_ne, effect_dt_ne,
      effect_st_ne, effect_waitReg_ne, destinations_ne_nil_of_v_ne,
      fun hne => (effect_pc_ne hroom hne).imp_left And.left, fun hne => ?run,
      fun hne => absurd (effect_fault s i) hne, fun hne => ?draws, effect_key s i, effect_strict s i,
      effect_events s i, effect_beeps s i⟩
    case run =>
      obtain ⟨hrun, hi⟩ := effect_run_ne hne
      exact .inl ⟨hrun, effect_fault s i, _, hi⟩
    case draws =>
      by_contra hall
      exact hne (effect_draws_of_ne (by simpa using hall))

theorem run_effect_eq {s : State} {i : Instr} {x : Nibble} (h : ∀ y, i = .waitForNextKeyPress y → y = x) :
    (effect s i).run = s.run ∨ i = .waitForNextKeyPress x := by
  by_cases hrun : (effect s i).run = s.run
  · exact .inl hrun
  · obtain ⟨-, hi⟩ := effect_run_ne hrun
    exact .inr (h _ hi ▸ hi)

/-- Settles O50: each listed instruction has room in every state, and no effect writes FAULT. -/
theorem instructionsThatCannotFault : Obligations.InstructionsThatCannotFault := by
  intro s x y n nn nnn op i hi
  have hroom : roomFor s i := by
    rcases List.mem_append.mp hi with hi | hi
    · simp only [List.mem_cons, List.not_mem_nil, or_false] at hi
      rcases hi with rfl | rfl | rfl | rfl | rfl | rfl | rfl | rfl | rfl | rfl | rfl | rfl | rfl | rfl | rfl | rfl |
        rfl | rfl | rfl | rfl | rfl | rfl | rfl | rfl | rfl | rfl <;> trivial
    · split_ifs at hi with hs
      · cases hi
      · obtain rfl := List.mem_singleton.mp hi
        exact Bool.eq_false_iff.mpr hs
  have hwait : ∀ z, i = .waitForNextKeyPress z → z = x := by
    rintro z rfl
    split_ifs at hi <;> simpa using hi
  exact ⟨_, exec_of_roomFor hroom, effect_fault s i, run_effect_eq hwait⟩

/-! ### Control flow -/

/-- Settles O16: Return takes the entry that Call pushed at the old SP. -/
theorem callThenReturnRestoresPc : Obligations.CallThenReturnRestoresPc := by
  intro nnn s hsp
  refine ⟨_, exec_of_roomFor (i := .call nnn) hsp, fun c hcsp hcstack => ?_⟩
  simp only [effect] at hcsp hcstack
  have hk : c.sp.toNat = s.sp.toNat + 1 := by rw [hcsp]; bv_omega
  have htop : c.stack[s.sp.toNat] = s.pc := by simp [hcstack]
  obtain ⟨hpop, -⟩ := popPC_of_sp c s.sp.toNat (by omega) hk
  have hne : c.sp ≠ 0 := by bv_omega
  refine ⟨_, (if_neg hne).trans hpop, htop, ?_, rfl⟩
  simp [hcsp]

/-- The step of an instruction that leaves a PC of at least 0x200 in a machine not Halted: the PC check halts it
exactly above 4095 (60_exceptions.md R205). -/
theorem afterHandler_of_pc_ge {a op : Word} {u : State} (hrun : u.run = .running) (hpc : 0x200 ≤ u.pc.toNat) :
    ∃ t, afterHandler a op (.next u) = .next t ∧ t = { u with run := t.run, fault := t.fault } ∧
      (t.pc.toNat ≤ 4095 → t.run = .running ∧ t.fault = u.fault) ∧
      (4095 < t.pc.toNat → t.run = .halted ∧ (u.fault.cause = .none → t.fault = ⟨.pcOutOfRange, a, op, t.pc⟩)) := by
  have hne : u.run ≠ .halted := by rw [hrun]; decide
  by_cases h : 4095 < u.pc.toNat
  · refine ⟨enterFault .pcOutOfRange a op u.pc u, ?_, rfl, fun hle => absurd h (Nat.not_lt.mpr hle), fun _ => ⟨rfl, ?_⟩⟩
    · simp only [afterHandler, if_neg hne, if_pos ((pcOutOfRange_iff u.pc).mpr (.inr h))]
    · exact enterFault_writes_report _ _ _ _ u
  · have hin : ¬ pcOutOfRange u.pc = true := mt (pcOutOfRange_iff u.pc).mp (by omega)
    refine ⟨u, ?_, rfl, fun _ => ⟨hrun, rfl⟩, fun hlt => absurd hlt h⟩
    simp only [afterHandler, if_neg hne, if_neg hin]

/-- Where the next event is a CPU tick and the fetch succeeds, a step runs the fetched instruction. -/
theorem step_running {s : State} (hev : nextEvent s = .cpuTick) (hrun : s.run = .running) (h1 : 0x200 ≤ s.pc.toNat)
    (h2 : s.pc.toNat ≤ 4094) :
    step s = afterHandler s.pc (fetchWord s.mem s.pc.toNat)
      (exec (decodeWord (fetchWord s.mem s.pc.toNat)) { s with pc := s.pc + 2, events := s.events.tail }) := by
  rw [step_eq, hev]
  exact cpuTick_running (dropEvent s) hrun h1 h2

/-- Settles O18: the fetch adds 2, a taken skip 2 more, and the PC check halts above 4095; the writers of PC are said
over all effects. -/
theorem skipStepReachesPlusFourOrPlusTwo : Obligations.SkipStepReachesPlusFourOrPlusTwo := by
  refine ⟨fun s c hev hrun h1 h2 hc => ?_, fun i s t h hne => ?_⟩
  · have hexec := exec_of_skipCondition (s := { s with pc := s.pc + 2, events := s.events.tail }) hc
    have hpc : (if c then s.pc + 2 + 2 else s.pc + 2).toNat = if c = true then s.pc.toNat + 4 else s.pc.toNat + 2 := by
      split_ifs <;> bv_omega
    rw [step_running hev hrun h1 h2, hexec]
    obtain ⟨t, hstep, ht, hle, hgt⟩ := afterHandler_of_pc_ge (a := s.pc) (op := fetchWord s.mem s.pc.toNat)
      (u := { s with pc := if c then s.pc + 2 + 2 else s.pc + 2, events := s.events.tail }) hrun
      (by simp only [hpc]; split_ifs <;> omega)
    have htpc : t.pc = if c then s.pc + 2 + 2 else s.pc + 2 := by rw [ht]
    exact ⟨t, hstep, by rw [htpc, hpc], by rw [htpc]; exact ht, hle, hgt⟩
  · obtain ⟨c, addr, -, rfl⟩ | ⟨hroom, rfl⟩ := exec_next h
    · exact absurd rfl hne
    · exact effect_pc_ne hroom hne

end Sys2Proof.Machine

/-! SUPPORT. The rules of the events and of the step (60_exceptions.md R203 to R227, 70_reset_and_hazards.md R250). -/

namespace Sys2Proof.Machine

/-! ### What a CPU tick keeps -/

theorem TickAnswer.keeps_report {s u t : State} (h : TickAnswer s u t) (hu : u.fault.cause ≠ .none) :
    t.fault = u.fault := by
  obtain ⟨-, rfl⟩ | ⟨-, rfl⟩ | ⟨-, -, -, rfl⟩ := h
  · rfl
  · exact enterFault_keeps_report _ _ _ _ u hu
  · rfl

theorem cpuTick_keeps_report {s t : State} (h : cpuTick s = .next t) (hs : s.fault.cause ≠ .none) :
    t.fault = s.fault := by
  obtain ⟨-, rfl⟩ | ⟨-, c, addr, -, rfl⟩ | ⟨-, -, -, u, hu, hans⟩ := cpuTick_next h
  · rfl
  · exact enterFault_keeps_report _ _ _ _ s hs
  · have hus : u.fault = s.fault := exec_keeps_report (s := { s with pc := s.pc + 2 }) hu hs
    rw [hans.keeps_report (by rwa [hus]), hus]

theorem cpuTick_beeps {s t : State} (h : cpuTick s = .next t) : t.beeps = s.beeps := by
  obtain ⟨-, rfl⟩ | ⟨-, c, addr, -, rfl⟩ | ⟨-, -, -, u, hu, hans⟩ := cpuTick_next h
  · rfl
  · rfl
  · have hus : u.beeps = s.beeps := exec_beeps (s := { s with pc := s.pc + 2 }) hu
    rw [hans.eq_but_run_fault, ← hus]

theorem cpuTick_of_not_running {s t : State} (h : cpuTick s = .next t) (hs : s.run ≠ .running) : t = s := by
  rw [cpuTick, if_pos hs] at h
  exact (Host.Outcome.next.inj h).symm

/-- A tick of a Running machine leaves RUN, or halts, or has run WaitForNextKeyPress. -/
theorem cpuTick_run {s t : State} (h : cpuTick s = .next t) :
    t.run = s.run ∨ (s.run = .running ∧ t.run = .halted) ∨
    (s.run = .running ∧ t.run = .waitingForKey ∧
      decodeWord (fetchWord s.mem s.pc.toNat) = .waitForNextKeyPress t.waitReg) := by
  obtain ⟨-, rfl⟩ | ⟨hrun, c, addr, -, rfl⟩ | ⟨hrun, -, -, u, hu, hans⟩ := cpuTick_next h
  · exact .inl rfl
  · exact .inr (.inl ⟨hrun, rfl⟩)
  · obtain ⟨hhalt, rfl⟩ | ⟨-, rfl⟩ | ⟨hne, -, -, rfl⟩ := hans
    · exact .inr (.inl ⟨hrun, hhalt⟩)
    · exact .inr (.inl ⟨hrun, rfl⟩)
    · obtain ⟨c, addr, -, rfl⟩ | ⟨-, rfl⟩ := exec_next hu
      · exact absurd rfl hne
      · by_cases hkept : (effect { s with pc := s.pc + 2 } (decodeWord (fetchWord s.mem s.pc.toNat))).run = s.run
        · exact .inl hkept
        · exact .inr (.inr ⟨hrun, effect_run_ne hkept⟩)

/-! ### What the other events keep -/

theorem timerTick_eq (s : State) :
    timerTick s = { s with dt := (timerTick s).dt, st := (timerTick s).st, beeps := (timerTick s).beeps } := by
  by_cases h : s.run = .running
  · rw [timerTick_of_running h]
  · rw [timerTick_of_not_running h]

theorem keyDownEvent_eq (k : Nat) (s : State) :
    keyDownEvent k s =
      { s with key := (keyDownEvent k s).key, v := (keyDownEvent k s).v, run := (keyDownEvent k s).run } := by
  by_cases h : s.run = .waitingForKey
  · rw [keyDownEvent_of_waiting h]; rfl
  · rw [keyDownEvent_of_not_waiting h]

theorem stopEvent_eq (s : State) : stopEvent s = { s with run := .halted, fault := (stopEvent s).fault } := by
  by_cases h : s.run = .halted
  · rw [stopEvent_of_halted h, ← h]
  · rw [stopEvent_of_not_halted h]; rfl

theorem stopEvent_keeps_report {s : State} (h : s.fault.cause ≠ .none) : (stopEvent s).fault = s.fault := by
  by_cases hh : s.run = .halted
  · rw [stopEvent_of_halted hh]
  · rw [stopEvent_of_not_halted hh]; exact enterFault_keeps_report _ _ _ _ s h

/-- ST at 1, as the model and as the statements write it. -/
theorem byte_eq_one_iff (b : Byte) : b = 1 ↔ b.toNat = 1 := BitVec.toNat_inj.symm

/-! ### The statements over every step -/

/-- Settles O10: only Reset writes a report over another. -/
theorem firstFaultReportIsKept : Obligations.FirstFaultReportIsKept := by
  intro s t h hs hreset
  rw [step_eq] at h
  rcases handleEvent_next h with ⟨-, h⟩ | ⟨-, rfl⟩ | ⟨k, -, -, rfl⟩ | ⟨k, -, -, rfl⟩ | ⟨-, rfl⟩ | ⟨-, rfl⟩ |
    ⟨rom, font, b, -, -, he, rfl⟩
  · exact cpuTick_keeps_report (s := dropEvent s) h hs
  · rw [timerTick_eq]; rfl
  · rw [keyDownEvent_eq]; rfl
  · rfl
  · rfl
  · exact stopEvent_keeps_report hs
  · exact absurd he (hreset rom font b)

/-- Settles O41: the timer tick counts the one Beep, and no other event counts any. -/
theorem beepOnlyFromTimerTickAtOne : Obligations.BeepOnlyFromTimerTickAtOne := by
  refine ⟨fun s t h => ?_, fun s b => rfl⟩
  have silent (hev : nextEvent s ≠ .timerTick) (hb : t.beeps = s.beeps) :
      t.beeps = if nextEvent s = .timerTick ∧ s.run = .running ∧ s.st.toNat = 1 then s.beeps + 1 else s.beeps := by
    rw [hb, if_neg fun hc => hev hc.1]
  rw [step_eq] at h
  rcases handleEvent_next h with ⟨he, h⟩ | ⟨he, rfl⟩ | ⟨k, -, he, rfl⟩ | ⟨k, -, he, rfl⟩ | ⟨he, rfl⟩ | ⟨he, rfl⟩ |
    ⟨rom, font, b, -, -, he, rfl⟩
  · exact silent (by rw [he]; decide) (cpuTick_beeps (s := dropEvent s) h)
  · by_cases hr : s.run = .running
    · rw [timerTick_of_running (s := dropEvent s) hr]
      simp only [dropEvent_st, dropEvent_beeps, byte_eq_one_iff, he, hr, true_and]
    · rw [timerTick_of_not_running (s := dropEvent s) hr]
      simp [hr]
  · exact silent (by rw [he]; simp) (by rw [keyDownEvent_eq]; rfl)
  · exact silent (by rw [he]; simp) rfl
  · exact silent (by rw [he]; decide) rfl
  · exact silent (by rw [he]; decide) (by rw [stopEvent_eq]; rfl)
  · exact silent (by rw [he]; simp) rfl

/-- Settles O44: each event's update, with the fields it can change written out. -/
theorem eventsNeverTransferControl : Obligations.EventsNeverTransferControl := by
  intro s
  refine ⟨?_, ?_, ?_, ?_, ?_⟩
  · rintro t ⟨⟩
    exact timerTick_eq s
  · intro k t h
    obtain ⟨-, rfl⟩ := keyEvent_next h
    refine ⟨keyDownEvent_eq k s, fun y hy => ?_, fun hw => ?_⟩
    · by_cases hw : s.run = .waitingForKey
      · rw [keyDownEvent_of_waiting hw]; exact getV_setV_ne s _ hy
      · rw [keyDownEvent_of_not_waiting hw]; rfl
    · rw [keyDownEvent_of_not_waiting hw]
      exact ⟨rfl, rfl⟩
  · intro k t h
    obtain ⟨-, rfl⟩ := keyEvent_next h
    rfl
  · rintro t ⟨⟩
    rfl
  · rintro t ⟨⟩
    exact stopEvent_eq s

/-- Settles O45: in Halted the ticks and Stop are ignored, and a key event or a DrawAck writes its own field. -/
theorem haltedIsLeftOnlyByReset : Obligations.HaltedIsLeftOnlyByReset := by
  intro s t hs h
  have hrun : (dropEvent s).run ≠ .running := by rw [dropEvent_run, hs]; decide
  have hwait : (dropEvent s).run ≠ .waitingForKey := by rw [dropEvent_run, hs]; decide
  rw [step_eq] at h
  refine ⟨?_, fun hreset => ?_⟩
  · rintro ⟨rom, font, b, he⟩
    rw [he] at h
    obtain ⟨-, -, rfl⟩ := resetEvent_next h
    exact ⟨rfl, rfl⟩
  · rcases handleEvent_next h with ⟨-, h⟩ | ⟨-, rfl⟩ | ⟨k, -, -, rfl⟩ | ⟨k, -, -, rfl⟩ | ⟨-, rfl⟩ | ⟨-, rfl⟩ |
      ⟨rom, font, b, -, -, he, rfl⟩
    · rw [cpuTick_of_not_running h hrun]; rfl
    · rw [timerTick_of_not_running hrun]; rfl
    · rw [keyDownEvent_of_not_waiting hwait]; rfl
    · rfl
    · rfl
    · rw [stopEvent_of_halted (s := dropEvent s) hs]; rfl
    · exact absurd he (hreset rom font b)

/-- What a step can do to RUN (60_exceptions.md R215). -/
theorem step_run {s t : State} (h : step s = .next t) :
    t.run = s.run ∨
    (nextEvent s = .cpuTick ∧ s.run = .running ∧ t.run = .halted) ∨
    (nextEvent s = .cpuTick ∧ s.run = .running ∧ t.run = .waitingForKey ∧
      decodeWord (fetchWord s.mem s.pc.toNat) = .waitForNextKeyPress t.waitReg) ∨
    ((∃ k, nextEvent s = .keyDown k) ∧ s.run = .waitingForKey ∧ t.run = .running) ∨
    (nextEvent s = .stop ∧ t.run = .halted) ∨
    ((∃ rom font b, nextEvent s = .reset rom font b) ∧ t.run = .running) := by
  rw [step_eq] at h
  rcases handleEvent_next h with ⟨he, h⟩ | ⟨-, rfl⟩ | ⟨k, -, he, rfl⟩ | ⟨k, -, -, rfl⟩ | ⟨-, rfl⟩ | ⟨he, rfl⟩ |
    ⟨rom, font, b, -, -, he, rfl⟩
  · rcases cpuTick_run h with h | ⟨hs, ht⟩ | ⟨hs, ht, hi⟩
    · exact .inl h
    · exact .inr (.inl ⟨he, hs, ht⟩)
    · exact .inr (.inr (.inl ⟨he, hs, ht, hi⟩))
  · exact .inl (by rw [timerTick_eq]; rfl)
  · by_cases hw : s.run = .waitingForKey
    · rw [keyDownEvent_of_waiting (s := dropEvent s) hw]
      exact .inr (.inr (.inr (.inl ⟨⟨k, he⟩, hw, rfl⟩)))
    · rw [keyDownEvent_of_not_waiting (s := dropEvent s) hw]
      exact .inl rfl
  · exact .inl rfl
  · exact .inl rfl
  · exact .inr (.inr (.inr (.inr (.inl ⟨he, by rw [stopEvent_eq]⟩))))
  · exact .inr (.inr (.inr (.inr (.inr ⟨⟨rom, font, b, he⟩, rfl⟩))))

/-- Settles O46: the six cases of `step_run` against the five changes. -/
theorem runStateChangesOnlyAsTabled : Obligations.RunStateChangesOnlyAsTabled := by
  intro s t h
  rcases step_run h with ht | ⟨he, hs, ht⟩ | ⟨he, hs, ht, hi⟩ | ⟨he, hs, ht⟩ | ⟨he, ht⟩ | ⟨he, ht⟩
  · cases hs : s.run <;> simp [ht, hs]
  · simp [he, hs, ht]
  · simp [he, hs, ht, hi]
  · simp [he, hs, ht]
  · simp [he, ht]
  · exact ⟨by simp [ht], fun _ _ => .inr he, by simp [ht], by simp [ht], fun _ _ => ⟨ht, he⟩⟩

/-! ### Reset -/

theorem unlisted_of_outside_font {a : Nat} (h : a < 0x050 ∨ 0x0A0 ≤ a) : Memory.unlisted a = 0 := by
  rw [Memory.unlisted, if_neg (by omega)]

/-- Settles O51: the FONT is written first and the ROM, whose range begins above it, second; every other byte reads as
unlisted. -/
theorem resetEventEstablishesTheResetState : Obligations.ResetEventEstablishesTheResetState := by
  intro rom font b s
  refine ⟨fun hrom hfont => ?_, fun hrom => if_pos hrom⟩
  refine ⟨_, resetEvent_ok b s hrom hfont, rfl, rfl, rfl, rfl, wf_resetWith_mem b s hrom hfont, fun k hk => ?_,
    fun k hk => get_putBytes_inside rom _ _ k hk, fun a ha => ?_⟩
  · exact (get_putBytes_outside rom _ _ _ (by omega)).trans (get_putBytes_inside font _ _ k hk)
  · calc Memory.get (resetWith rom font b s).mem a
        = Memory.get (Memory.putBytes [] 0x050 font) a := get_putBytes_outside rom _ _ _ (by omega)
      _ = Memory.unlisted a := get_putBytes_outside font _ _ _ (by omega)
      _ = 0 := unlisted_of_outside_font (by omega)

/-! ### A run of timer ticks -/

theorem countDown_toNat (b : Byte) : (countDown b).toNat = b.toNat - 1 := by
  unfold countDown
  split_ifs with h
  · rw [h]; rfl
  · bv_omega

theorem core_run_succ {s t : State} (n : Nat) (h : step s = .next t) :
    Sys2Proof.core.run (n + 1) s = Sys2Proof.core.run n t := by
  have h' : Sys2Proof.core.step s = .next t := h
  simp only [Host.Core.run, h']

/-- Settles O40, by induction on the number of ticks: one tick takes each timer one lower and beeps at ST = 1. -/
theorem timersReachZeroAfterExactlyTheirCount : Obligations.TimersReachZeroAfterExactlyTheirCount := by
  intro n
  induction n with
  | zero =>
    intro s _ hev
    refine ⟨s, rfl, rfl, rfl, (if_neg (by omega)).symm, ?_⟩
    rw [List.replicate_zero] at hev
    rw [← hev]
  | succ n ih =>
    intro s hrun hev
    have hstep : step s = .next (timerTick (dropEvent s)) := by
      rw [step_eq, nextEvent, hev]; rfl
    have htick := timerTick_of_running (s := dropEvent s) hrun
    obtain ⟨t, ht, hdt, hst, hbeeps, heq⟩ :=
      ih (timerTick (dropEvent s)) (by rw [htick]; exact hrun) (by rw [htick]; simp [hev])
    rw [htick] at hdt hst hbeeps heq
    refine ⟨t, (core_run_succ n hstep).trans ht, ?_, ?_, ?_, heq⟩
    · rw [hdt, countDown_toNat, dropEvent_dt]; omega
    · rw [hst, countDown_toNat, dropEvent_st]; omega
    · rw [hbeeps]
      simp only [countDown_toNat, dropEvent_st, dropEvent_beeps, byte_eq_one_iff]
      split_ifs <;> omega

/-! ### The placed word -/

theorem withFetchWord_16 (s : State) (w : Nat) :
    s.withFetchWord 16 w = placeBytes [highByte (BitVec.ofNat 16 w), lowByte (BitVec.ofNat 16 w)] s := by
  rw [State.withFetchWord, tableBytes_16]

theorem nextEvent_placeBytes (bytes : List Byte) (s : State) : nextEvent (placeBytes bytes s) = .cpuTick := by
  show (if nextEvent s = .cpuTick then s.events else .cpuTick :: s.events).headD .cpuTick = .cpuTick
  split_ifs with h
  · exact h
  · rfl

theorem fetchWord_putBytes (m : Memory) (a : Nat) (hi lo : Byte) :
    fetchWord (Memory.putBytes m a [hi, lo]) a = joinBytes hi lo := by
  have hhi := get_putBytes_inside [hi, lo] m a 0 (by simp)
  have hlo := get_putBytes_inside [hi, lo] m a 1 (by simp)
  simp only [Nat.add_zero, List.getElem_cons_zero, List.getElem_cons_succ] at hhi hlo
  rw [fetchWord, hhi, hlo]

/-- Settles O8: the bytes stand at the fetched address, where the fetch joins them to the word again. -/
theorem withFetchWordRunsThePlacedWord : Obligations.WithFetchWordRunsThePlacedWord := by
  rintro s t w rfl
  rw [withFetchWord_16]
  obtain ⟨h1, h2⟩ := fetchAddr_range s
  refine ⟨?_, rfl, fun hlo hhi => if_pos ⟨hlo, hhi⟩, fun hev => if_pos hev, fun a ha => ?_⟩
  · have hfetch := fetchWord_putBytes s.mem (fetchAddr s).toNat (highByte (BitVec.ofNat 16 w))
      (lowByte (BitVec.ofNat 16 w))
    rw [joinBytes_fields] at hfetch
    rw [step_running (nextEvent_placeBytes _ s) rfl h1 h2]
    simp only [placeBytes, hfetch]
    exact checksPC_afterHandler _ _ _
  · exact get_putBytes_outside _ _ _ _ (ha.imp_right Nat.succ_le_of_lt)

end Sys2Proof.Machine

/-! SUPPORT. Display and random (44_display_random.md). The cells a DrawSprite flips are distinct, so each is flipped
once: a pixel changes exactly where the sprite hits, and drawing again undoes it. -/

namespace Sys2Proof.Machine

/-! ### The cells that DrawSprite flips -/

/-- The cells that DrawSprite X, Y, N flips in `s`, in the order of its pixel loop. -/
def hitCells (s : State) (x y n : Nibble) : List Nat :=
  spriteCells (s.getV x).toNat (s.getV y).toNat 0 (Memory.getBytes s.mem s.i.toNat n.toNat)

theorem hitCells_lt (s : State) (x y n : Nibble) : ∀ k ∈ hitCells s x y n, k < 2048 := spriteCells_lt _ _ _ _

theorem hitCells_nodup (s : State) (x y n : Nibble) : (hitCells s x y n).Nodup := by
  have hn := n.isLt
  exact spriteCells_nodup _ _ _ _ (by rw [getBytes_length]; omega)

/-- A cell after a loop over distinct cells is flipped exactly if it is among them. -/
theorem cell_drawCells_of_nodup {ks : List Nat} (fb : Frame) (hit : Bool) (hks : ∀ k ∈ ks, k < 2048) (hnd : ks.Nodup)
    {j : Nat} (hj : j < 2048) : Frame.cell (drawCells fb hit ks).1 j = (Frame.cell fb j ^^ decide (j ∈ ks)) := by
  rw [cell_drawCells ks fb hit hks j hj]
  by_cases h : j ∈ ks
  · simp [h, List.count_eq_one_of_mem hnd h]
  · simp [h, List.count_eq_zero_of_not_mem h]

theorem pixel_drawSprite (s : State) (x y n : Nibble) {c r : Nat} (hc : c < 64) (hr : r < 32) :
    pixel (effect s (.drawSprite x y n)) c r = (pixel s c r ^^ decide (c + r * 64 ∈ hitCells s x y n)) :=
  cell_drawCells_of_nodup s.fb false (hitCells_lt s x y n) (hitCells_nodup s x y n) (by omega)

/-- The loop reports a collision exactly where a hit pixel was lit. -/
theorem collision_iff (s : State) (x y n : Nibble) :
    (drawCells s.fb false (hitCells s x y n)).2 = true ↔
      ∃ c < 64, ∃ r < 32, SpriteHits s x y n c r ∧ pixel s c r = true := by
  rw [hit_drawCells _ _ _ (hitCells_lt s x y n) (hitCells_nodup s x y n), Bool.false_or, List.any_eq_true]
  constructor
  · rintro ⟨k, hk, hlit⟩
    have hlt := hitCells_lt s x y n k hk
    have hkr : k % 64 + k / 64 * 64 = k := by omega
    refine ⟨k % 64, by omega, k / 64, by omega, ?_, by rwa [pixel, hkr]⟩
    exact (mem_spriteCells_iff_hits s x y n _ _ (by omega) (by omega)).mp (by rwa [hkr])
  · rintro ⟨c, hc, r, hr, hhit, hlit⟩
    exact ⟨c + r * 64, (mem_spriteCells_iff_hits s x y n c r hc hr).mpr hhit, hlit⟩

theorem getV_regF_drawSprite (s : State) (x y n : Nibble) :
    (effect s (.drawSprite x y n)).getV regF = flagByte (drawCells s.fb false (hitCells s x y n)).2 :=
  getV_setV_same s regF _

theorem flagByte_eq_one_iff (b : Bool) : flagByte b = 1 ↔ b = true := by
  cases b <;> decide

theorem flagByte_eq_zero_iff (b : Bool) : flagByte b = 0 ↔ b = false := by
  cases b <;> decide

/-! ### Drawing again -/

/-- A register that is not VF reads the same after the draw. -/
theorem getV_drawSprite_ne (s : State) (x y n : Nibble) {z : Nibble} (hz : z ≠ regF) :
    (effect s (.drawSprite x y n)).getV z = s.getV z := getV_setV_ne s _ hz

theorem hitCells_drawSprite (s : State) {x y : Nibble} (n : Nibble) (hx : x ≠ regF) (hy : y ≠ regF) :
    hitCells (effect s (.drawSprite x y n)) x y n = hitCells s x y n := by
  rw [hitCells, getV_drawSprite_ne s x y n hx, getV_drawSprite_ne s x y n hy]
  rfl

theorem spriteHits_drawSprite (s : State) {x y : Nibble} (n : Nibble) (hx : x ≠ regF) (hy : y ≠ regF) (c r : Nat) :
    SpriteHits (effect s (.drawSprite x y n)) x y n c r ↔ SpriteHits s x y n c r := by
  rw [SpriteHits, getV_drawSprite_ne s x y n hx, getV_drawSprite_ne s x y n hy]
  rfl

theorem fb_drawSprite_twice (s : State) {x y : Nibble} (n : Nibble) (hx : x ≠ regF) (hy : y ≠ regF) :
    (effect (effect s (.drawSprite x y n)) (.drawSprite x y n)).fb = s.fb := by
  apply frame_ext
  intro k hk
  have hkr : k % 64 + k / 64 * 64 = k := by omega
  have hc : k % 64 < 64 := by omega
  have hr : k / 64 < 32 := by omega
  have hpixel : pixel (effect (effect s (.drawSprite x y n)) (.drawSprite x y n)) (k % 64) (k / 64)
      = pixel s (k % 64) (k / 64) := by
    rw [pixel_drawSprite _ x y n hc hr, pixel_drawSprite s x y n hc hr, hitCells_drawSprite s n hx hy, Bool.xor_assoc,
      Bool.xor_self, Bool.xor_false]
  simpa only [pixel, hkr] using hpixel

/-! ### The statements -/

/-- Settles O33: each hit cell is flipped once, and the collision is what the loop reports. -/
theorem drawSpriteXorsWrappedPixels : Obligations.DrawSpriteXorsWrappedPixels := by
  intro x y n s hroom
  refine ⟨_, exec_of_roomFor (i := .drawSprite x y n) hroom, fun c hc r hr => ?_, fun hlit => ?_, fun hdark => ?_,
    fun z hz => getV_drawSprite_ne s x y n hz, rfl, rfl⟩
  · rw [pixel_drawSprite s x y n hc hr, ← mem_spriteCells_iff_hits s x y n c r hc hr, ← hitCells]
    by_cases h : c + r * 64 ∈ hitCells s x y n <;> simp [h]
  · rw [getV_regF_drawSprite, flagByte_eq_one_iff]
    exact (collision_iff s x y n).mpr hlit
  · rw [getV_regF_drawSprite, flagByte_eq_zero_iff, ← Bool.not_eq_true, collision_iff]
    rintro ⟨c, hc, r, hr, hhit, hlit⟩
    rw [hdark c hc r hr hhit] at hlit
    cases hlit

/-- Settles O34: the second draw flips the same cells, for the first writes neither VX, VY, I nor memory. -/
theorem drawingTwiceRestoresTheFramebuffer : Obligations.DrawingTwiceRestoresTheFramebuffer := by
  intro x y n s hx hy hroom
  refine ⟨_, _, exec_of_roomFor (i := .drawSprite x y n) hroom, exec_of_roomFor (i := .drawSprite x y n) hroom,
    fb_drawSprite_twice s n hx hy, ?_, ?_⟩
  · rw [getV_regF_drawSprite, flagByte_eq_one_iff, collision_iff]
    simp only [spriteHits_drawSprite s n hx hy]
  · rw [getV_regF_drawSprite, flagByte_eq_zero_iff, flagByte_eq_one_iff]
    exact Bool.eq_false_or_eq_true _ |>.symm

/-- Settles O32: every cell of the blank framebuffer is 0, and Clear's effect is that one field. -/
theorem clearBlanksTheFramebufferAlone : Obligations.ClearBlanksTheFramebufferAlone :=
  fun s => ⟨_, exec_of_roomFor (i := .clear) (s := s) trivial, fun c _ r _ => cell_blank (c + r * 64), rfl⟩

/-- Settles O35: the one register write is of the draw masked, and the counter moves one up. -/
theorem randomMasksOneDraw : Obligations.RandomMasksOneDraw := by
  intro x nn s
  refine ⟨_, exec_of_roomFor (i := .random x nn) (s := s) trivial, rfl, fun k => ?_, fun y hy => getV_setV_ne s _ hy⟩
  have hx : (effect s (.random x nn)).getV x = Config.randomDraw s.draws &&& nn := getV_setV_same s x _
  rw [hx, BitVec.getLsbD_and]

end Sys2Proof.Machine

/-! SUPPORT. The tick, control flow and skips, instruction by instruction (40_control_flow.md, 41_skips.md,
60_exceptions.md R210). An instruction with room for its effect has it; without room it raises its fault. -/

namespace Sys2Proof.Machine

/-! ### The step and the CPU tick -/

/-- Settles O6: what decodes to `i` is the word that encodes it, so the check reports `encode i`. -/
theorem stepRunsTheDecodedInstruction : Obligations.StepRunsTheDecodedInstruction := by
  intro s i hev hrun h1 h2 hdec
  have hi : decodeWord (fetchWord s.mem s.pc.toNat) = i := by
    rw [decode_cons_cons] at hdec
    exact (Prod.mk.inj (Except.ok.inj hdec)).1
  have hop : fetchWord s.mem s.pc.toNat = encode i := by rw [← hi, encode_decodeWord]
  rw [step_running hev hrun h1 h2, hi, hop]
  exact checksPC_afterHandler _ _ _

/-- Settles O7: the four clauses are the four branches of the tick. -/
theorem cpuTickFollowsTheExecutionLoop : Obligations.CpuTickFollowsTheExecutionLoop := by
  intro s
  refine ⟨fun hr => if_pos hr, fun hr hpc => ?_, fun hr hpc => ?_, fun hr h1 h2 op hop => ?_⟩
  · have hout := (pcOutOfRange_iff s.pc).mpr hpc
    exact ⟨_, (if_neg (not_not.mpr hr)).trans (if_pos hout), haltsWith_enterFault _ _ _ _ s⟩
  · refine ⟨enterFault .memoryOutOfRange s.pc 0 4096 s, ?_, haltsWith_enterFault _ _ _ _ s⟩
    rcases cpuTick_cases s with ⟨hr', -⟩ | ⟨-, hout, -⟩ | ⟨-, -, e⟩ | ⟨-, -, hle, -⟩
    · exact absurd hr hr'
    · rw [pcOutOfRange_iff] at hout; omega
    · exact e
    · omega
  · subst hop
    rw [handleEvent, cpuTick_running s hr h1 h2]
    exact checksPC_afterHandler _ _ _

/-! ### Raised faults -/

/-- A raised fault in the terms of `HaltsWith`. -/
theorem halts_of_exec_eq_raise {i : Instr} {c : Cause} {addr : Word} {s : State} (h : exec i s = raise i c addr s) :
    ∃ t, exec i s = .next t ∧ HaltsWith s t ⟨c, s.pc - 2, encode i, addr⟩ :=
  ⟨_, h, haltsWith_enterFault _ _ _ _ s⟩

/-- Settles O15: Call and Return test SP before they write. -/
theorem fullAndEmptyStackAreFaults : Obligations.FullAndEmptyStackAreFaults :=
  fun _ => ⟨fun nnn hsp => halts_of_exec_eq_raise (i := .call nnn) (if_pos hsp),
    fun hsp => halts_of_exec_eq_raise (i := .ret) (if_pos hsp)⟩

theorem withIndex_bad (i : Instr) (c : Cause) {x : Nibble} {s : State} (k : Byte → Result) {a : Word}
    (h : 15 < (s.getV x).toNat) (ha : a.toNat = (s.getV x).toNat) : withIndex i c x s k = raise i c a s := by
  have hzext : zextByte (s.getV x) = a := BitVec.eq_of_toNat_eq ((zextByte_toNat _).trans ha.symm)
  rw [withIndex, if_pos h, hzext]

/-- Settles O19: the three forms over `withIndex`, the register's value reported widened. -/
theorem indicesAboveFifteenAreFaults : Obligations.IndicesAboveFifteenAreFaults := by
  intro x s h a ha
  refine ⟨halts_of_exec_eq_raise (i := .skipKeyDown x) ?_, halts_of_exec_eq_raise (i := .skipKeyUp x) ?_,
    halts_of_exec_eq_raise (i := .fontIndex x) ?_⟩
  · rw [exec, execSkipKeyDown, withIndex_bad _ _ _ h ha]
  · rw [exec, execSkipKeyUp, withIndex_bad _ _ _ h ha]
  · rw [exec, execFontIndex, withIndex_bad _ _ _ h ha]

/-- Settles O30: the four blocks of length 3, X + 1, X + 1 and N. -/
theorem blockAccessAbove4095IsAFault : Obligations.BlockAccessAbove4095IsAFault := by
  intro x y n s a ha
  refine ⟨fun h => halts_of_exec_eq_raise (i := .storeBCD x) ?_, fun h => halts_of_exec_eq_raise (i := .regDump x) ?_,
    fun h => halts_of_exec_eq_raise (i := .regLoad x) ?_,
    fun h0 h => halts_of_exec_eq_raise (i := .drawSprite x y n) ?_⟩
  · have hlen : (bcdDigits (s.getV x)).length = 3 := rfl
    exact storeBlock_bad _ _ s (by omega) (by omega) a ha
  · have hlen := regsUpTo_length s x
    exact storeBlock_bad _ _ s (by omega) (by omega) a ha
  · rw [exec, execRegLoad, loadBlock_bad _ _ s _ (by omega) (by omega) a ha]
  · rw [exec, execDrawSprite, loadBlock_bad _ _ s _ h0 h a ha]

/-! ### Control flow -/

/-- Settles O11: Sys has the identity as its effect, Nop too where it has room, and raises where it has none. -/
theorem sysAndNopDoNothing : Obligations.SysAndNopDoNothing :=
  ⟨fun _ _ h hE0 hEE => ⟨decodeWord_sys h hE0 hEE, rfl⟩, fun op _ hs => exec_of_roomFor (i := .nop op) hs,
    fun op _ hs => halts_of_exec_eq_raise (i := .nop op) (if_pos hs)⟩

/-- The sum of JumpOffset is at most 4095 + 255: it does not wrap. -/
theorem jumpOffset_toNat (nnn : Addr12) (b : Byte) : (zextAddr nnn + zextByte b).toNat = nnn.toNat + b.toNat := by
  have hn := nnn.isLt
  have hb := b.isLt
  rw [BitVec.toNat_add, zextAddr_toNat, zextByte_toNat, Nat.mod_eq_of_lt (by omega)]

/-- Settles O12: both effects write PC alone, and neither target wraps. -/
theorem jumpsSetPcToTheirTarget : Obligations.JumpsSetPcToTheirTarget :=
  fun nnn s => ⟨⟨_, exec_of_roomFor (i := .jump nnn) (s := s) trivial, zextAddr_toNat nnn, rfl⟩,
    ⟨_, exec_of_roomFor (i := .jumpOffset nnn) (s := s) trivial, jumpOffset_toNat nnn (s.getV 0), rfl⟩⟩

/-- Settles O13: the effect of Call where it has room. -/
theorem callPushesPcAndJumps : Obligations.CallPushesPcAndJumps := by
  intro nnn s hsp
  refine ⟨_, exec_of_roomFor (i := .call nnn) hsp, zextAddr_toNat nnn, ?_, fun k => ?_, rfl⟩
  · simp only [effect]; bv_omega
  · simp only [effect, Fin.getElem_fin, Vector.getElem_setIfInBounds, eq_comm]

/-- Settles O14: with 1 to 16 addresses on the stack Return pops the top one; above 16 the array has no such entry. -/
theorem returnPopsIntoPc : Obligations.ReturnPopsIntoPc := by
  intro s
  refine ⟨fun k hk => ?_, fun hsp => ?_⟩
  · have hne : s.sp ≠ 0 := by bv_omega
    obtain ⟨hpop, hsp⟩ := popPC_of_sp s k.val k.isLt hk
    exact ⟨_, (if_neg hne).trans hpop, rfl, hsp, rfl⟩
  · have hne : s.sp ≠ 0 := by bv_omega
    have hpred := toNat_sub_one hne
    rw [exec, execReturn, if_neg hne]
    rcases popPC_cases s with ⟨h16, -⟩ | ⟨-, e⟩
    · omega
    · exact e

/-! ### Skips -/

theorem getElem?_key (s : State) {b : Byte} {k : Fin 16} (h : b.toNat = k.val) : s.key[b.toNat]? = some s.key[k] := by
  rw [h]; exact Vector.getElem?_eq_getElem k.isLt

/-- Settles O17: each skip has the condition of its row. -/
theorem skipsAddTwoToPcOnTheirCondition : Obligations.SkipsAddTwoToPcOnTheirCondition := by
  intro x y low nn s
  refine ⟨⟨_, exec_of_skipCondition (i := .skipEqConst x nn) rfl, by simp⟩,
    ⟨_, exec_of_skipCondition (i := .skipNeConst x nn) rfl, by simp⟩,
    ⟨_, exec_of_skipCondition (i := .skipEqVal x y low) rfl, by simp⟩,
    ⟨_, exec_of_skipCondition (i := .skipNeVal x y low) rfl, by simp⟩, fun k hk => ?_⟩
  have hdown : skipCondition s (.skipKeyDown x) = some s.key[k] := getElem?_key s hk
  have hup : skipCondition s (.skipKeyUp x) = some (!s.key[k]) := congrArg (Option.map (!·)) (getElem?_key s hk)
  exact ⟨⟨_, exec_of_skipCondition hdown, rfl⟩, ⟨_, exec_of_skipCondition hup, by cases s.key[k] <;> rfl⟩⟩

end Sys2Proof.Machine

/-! SUPPORT. Registers, memory, timers and keys, instruction by instruction and event by event (42_load_alu.md,
43_index_memory.md, 45_timers_keys.md, 60_exceptions.md R212 to R227), and the reset table (10_state.md R29). -/

namespace Sys2Proof.Machine

/-! ### Loads and the ALU -/

/-- Settles O22: one register write each, of a result that is bitwise by the library's own laws. -/
theorem copyAndLogicWriteOnlyVx : Obligations.CopyAndLogicWriteOnlyVx :=
  fun x _ s => ⟨⟨_, rfl, writesReg_setV s x _⟩,
    ⟨_, _, rfl, writesReg_setV s x _, fun _ => BitVec.getLsbD_or⟩,
    ⟨_, _, rfl, writesReg_setV s x _, fun _ => BitVec.getLsbD_and⟩,
    ⟨_, _, rfl, writesReg_setV s x _, fun _ => BitVec.getLsbD_xor⟩⟩

theorem addCarry_iff {a b : Byte} : addCarry a b = true ↔ 255 < a.toNat + b.toNat := decide_eq_true_iff

/-- Settles O23: the carry decides between a write of the sum with the flag and without. -/
theorem addValSetsCarryAndNeverClearsIt : Obligations.AddValSetsCarryAndNeverClearsIt := by
  intro x y s b hb
  obtain rfl : b = s.getV x + s.getV y := byte_eq_add hb
  refine ⟨_, exec_of_roomFor (i := .addVal x y) (s := s) trivial, fun hc => ?_, fun hc => ?_⟩
  · rw [effect, if_pos (addCarry_iff.mpr hc)]
    exact writesRegAndFlag_setVFlag s x _ true
  · rw [effect, if_neg (mt addCarry_iff.mp (by omega))]
    exact writesReg_setV s x _

/-- The byte difference is the spec's difference modulo 256 (42_load_alu.md R128). -/
theorem byte_eq_sub {a k b : Byte} (h : b.toNat = (256 + a.toNat - k.toNat) % 256) : b = a - k := by
  bv_omega

/-- A flag that is a comparison, as the statements write it. -/
theorem writesRegAndFlag_of_iff {s : State} {x : Nibble} {b : Byte} {f : Bool} {p : Prop} [Decidable p]
    (h : f = true ↔ p) : WritesRegAndFlag s (s.setVFlag x b f) x b (if p then 1 else 0) := by
  have hf : f = decide p := by rw [Bool.eq_iff_iff, h, decide_eq_true_iff]
  rw [← flagByte_decide, ← hf]
  exact writesRegAndFlag_setVFlag s x b f

/-- Settles O24: one write with a flag each, the flag being the comparison of the operands. -/
theorem subtractionsSetNoBorrow : Obligations.SubtractionsSetNoBorrow := by
  refine fun x y s => ⟨fun b hb => ?_, fun b hb => ?_⟩
  · obtain rfl := byte_eq_sub hb
    exact ⟨_, rfl, writesRegAndFlag_of_iff decide_eq_true_iff⟩
  · obtain rfl := byte_eq_sub hb
    exact ⟨_, rfl, writesRegAndFlag_of_iff decide_eq_true_iff⟩

theorem byte_eq_shiftRight {a b : Byte} (h : b.toNat = a.toNat / 2) : b = a >>> 1 :=
  BitVec.eq_of_toNat_eq (by rw [h, BitVec.toNat_ushiftRight, Nat.shiftRight_eq_div_pow, pow_one])

theorem byte_eq_shiftLeft {a b : Byte} (h : b.toNat = a.toNat * 2 % 256) : b = a <<< 1 :=
  BitVec.eq_of_toNat_eq (by rw [h, BitVec.toNat_shiftLeft, Nat.shiftLeft_eq, pow_one])

theorem shiftRightOut_iff (b : Byte) : shiftRightOut b = true ↔ b.toNat % 2 = 1 := by
  simp [shiftRightOut, BitVec.getLsbD, Nat.testBit_zero]

theorem shiftLeftOut_iff (b : Byte) : shiftLeftOut b = true ↔ 128 ≤ b.toNat := by
  have hb := b.isLt
  rw [shiftLeftOut, BitVec.getLsbD, Nat.testBit_eq_decide_div_mod_eq, decide_eq_true_iff]
  omega

/-- Settles O25: one write with a flag each, the flag being the bit that leaves. -/
theorem shiftsMoveOneBitAndReportIt : Obligations.ShiftsMoveOneBitAndReportIt := by
  refine fun x y s => ⟨fun b hb => ?_, fun b hb => ?_⟩
  · obtain rfl := byte_eq_shiftRight hb
    exact ⟨_, rfl, writesRegAndFlag_of_iff (shiftRightOut_iff _)⟩
  · obtain rfl := byte_eq_shiftLeft hb
    exact ⟨_, rfl, writesRegAndFlag_of_iff (shiftLeftOut_iff _)⟩

/-! ### The index register and memory -/

theorem addIndex_toNat (i : Word) (b : Byte) : (i + zextByte b).toNat = (i.toNat + b.toNat) % 65536 := by
  rw [BitVec.toNat_add, zextByte_toNat]

theorem glyphAddr_toNat {d : Byte} (h : d.toNat ≤ 15) : (glyphAddr d).toNat = 0x050 + 5 * d.toNat := by
  rw [glyphAddr, BitVec.toNat_ofNat, Nat.mod_eq_of_lt (by omega)]

/-- Settles O26: the three effects write I alone; FontIndex has room up to index 15. -/
theorem indexInstructionsWriteOnlyI : Obligations.IndexInstructionsWriteOnlyI :=
  fun x nnn s => ⟨⟨_, rfl, zextAddr_toNat nnn, rfl⟩, ⟨_, rfl, addIndex_toNat s.i (s.getV x), rfl⟩,
    fun h => ⟨_, exec_of_roomFor (i := .fontIndex x) h, glyphAddr_toNat h, rfl⟩⟩

/-- The byte stored at I + k, read back. -/
theorem get_effAddr_putBytes (s : State) (bytes : List Byte) {k : Nat} (h : k < bytes.length) :
    Memory.get (Memory.putBytes s.mem s.i.toNat bytes) (s.effAddr k) = bytes[k] :=
  get_putBytes_inside bytes s.mem s.i.toNat k h

theorem get_storeBCD (s : State) (x : Nibble) {k : Nat} (h : k < (bcdDigits (s.getV x)).length) :
    Memory.get (effect s (.storeBCD x)).mem (s.effAddr k) = (bcdDigits (s.getV x))[k] := get_effAddr_putBytes s _ h

theorem ofNat_8_toNat {d : Nat} (h : d < 256) : (BitVec.ofNat 8 d).toNat = d := by
  rw [BitVec.toNat_ofNat, Nat.mod_eq_of_lt h]

/-- Settles O27: the three digits are a block of length 3. -/
theorem storeBCDWritesThreeDigits : Obligations.StoreBCDWritesThreeDigits := by
  intro x s h
  have hlen : (bcdDigits (s.getV x)).length = 3 := rfl
  have hroom : roomFor s (.storeBCD x) := by rw [roomFor]; omega
  have hb := (s.getV x).isLt
  refine ⟨_, exec_of_roomFor hroom, rfl, ?_, ?_, ?_, fun a ha => get_putBytes_outside _ _ _ _ (ha.imp_right id)⟩
  · rw [get_storeBCD s x (k := 0) (by omega)]; exact ofNat_8_toNat (by omega)
  · rw [get_storeBCD s x (k := 1) (by omega)]; exact ofNat_8_toNat (by omega)
  · rw [get_storeBCD s x (k := 2) (by omega)]; exact ofNat_8_toNat (by omega)

theorem roomFor_regDump {s : State} {x : Nibble} (h : s.i.toNat + x.toNat ≤ 4095) : roomFor s (.regDump x) := by
  rw [roomFor, regsUpTo_length]; omega

theorem get_regDump {s : State} {x y : Nibble} (h : y.toNat ≤ x.toNat) :
    Memory.get (effect s (.regDump x)).mem (s.effAddr y.toNat) = s.getV y := by
  have hlen : y.toNat < (s.regsUpTo x).length := by rw [regsUpTo_length]; omega
  rw [effect, get_effAddr_putBytes s (s.regsUpTo x) hlen, regsUpTo_getElem s x y.toNat h hlen]
  simp

/-- Settles O28: the registers up to VX are a block of length X + 1. -/
theorem regDumpStoresV0ToVx : Obligations.RegDumpStoresV0ToVx := by
  intro x s h
  refine ⟨_, exec_of_roomFor (roomFor_regDump h), rfl, fun y hy => get_regDump hy, fun a ha => ?_⟩
  refine get_putBytes_outside _ _ _ _ ?_
  rw [regsUpTo_length]
  simp only [State.effAddr] at ha
  omega

/-- Settles O31: the two bytes at I + k are Vk and Vk+1. -/
theorem storedBytesAreFetchedNext : Obligations.StoredBytesAreFetchedNext := by
  intro x s k h hk
  have hsucc : (k + 1).toNat = k.toNat + 1 := by have := x.isLt; bv_omega
  have hlow : Memory.get (effect s (.regDump x)).mem (s.effAddr k.toNat + 1) = s.getV (k + 1) := by
    have hget := get_regDump (s := s) (x := x) (y := k + 1) (by omega)
    rwa [hsucc] at hget
  refine ⟨_, exec_of_roomFor (roomFor_regDump h), ?_⟩
  rw [fetchWord, get_regDump (by omega), hlow]

/-- Settles O29: in range the registers up to VX are the bytes read; out of range the check faults first. -/
theorem regLoadLoadsV0ToVx : Obligations.RegLoadLoadsV0ToVx := by
  refine fun x => ⟨decodeWord_encode (i := .regLoad x) rfl, fun s => ⟨fun h => ?_, fun h a ha => ?_⟩⟩
  · have hroom : roomFor s (.regLoad x) := by rw [roomFor]; omega
    have hreg (y : Nibble) : (effect s (.regLoad x)).getV y = if y.toNat ≤ x.toNat
        then (Memory.getBytes s.mem s.i.toNat (x.toNat + 1)).getD y.toNat 0 else s.getV y := getV_loadRegs s x y _
    refine ⟨_, exec_of_roomFor hroom, rfl, fun y hy => ?_, fun y hy => ?_⟩
    · have hlt : y.toNat < (Memory.getBytes s.mem s.i.toNat (x.toNat + 1)).length := by rw [getBytes_length]; omega
      rw [hreg, if_pos hy, List.getD_eq_getElem _ _ hlt, getBytes_getElem]
      rfl
    · rw [hreg, if_neg (by omega)]
  · have hraise : exec (.regLoad x) s = raise (.regLoad x) .memoryOutOfRange a s := by
      rw [exec, execRegLoad, loadBlock_bad _ _ s _ (by omega) (by omega) a ha]
    refine ⟨_, hraise, rfl, rfl, rfl, fun hs => ?_⟩
    rw [enterFault_writes_report _ _ _ _ s hs]
    exact ⟨rfl, rfl⟩

/-! ### Timers and keys -/

/-- Settles O37: the three handlers are one update each. -/
theorem timerInstructionsMoveOneByte : Obligations.TimerInstructionsMoveOneByte :=
  fun x s => ⟨⟨_, rfl, writesReg_setV s x s.dt⟩, ⟨_, rfl, rfl, rfl⟩, ⟨_, rfl, rfl, rfl⟩⟩

theorem key_setIfInBounds (s : State) (k j : Fin 16) (b : Bool) :
    (s.key.setIfInBounds k.val b)[j] = if j = k then b else s.key[j] := by
  simp only [Fin.getElem_fin, Vector.getElem_setIfInBounds, Fin.ext_iff, eq_comm]

theorem handleEvent_keyDown (k : Fin 16) (s : State) : handleEvent (.keyDown k.val) s = .next (keyDownEvent k.val s) :=
  if_neg (by omega)

theorem handleEvent_keyUp (k : Fin 16) (s : State) : handleEvent (.keyUp k.val) s = .next (keyUpEvent k.val s) :=
  if_neg (by omega)

/-- KeyDown ends a key wait: the waiting register takes the index of the key. -/
theorem keyDownEvent_waitReg {k : Fin 16} {s : State} (h : s.run = .waitingForKey) :
    ((keyDownEvent k.val s).getV s.waitReg).toNat = k.val ∧
    (∀ y, y ≠ s.waitReg → (keyDownEvent k.val s).getV y = s.getV y) ∧
    keyDownEvent k.val s =
      { s with key := (keyDownEvent k.val s).key, v := (keyDownEvent k.val s).v, run := .running } := by
  rw [keyDownEvent_of_waiting h]
  refine ⟨?_, fun y hy => getV_setV_ne s _ hy, rfl⟩
  exact (congrArg BitVec.toNat (getV_setV_same s s.waitReg _)).trans (ofNat_8_toNat (by omega))

theorem keyDownEvent_key (k j : Fin 16) (s : State) :
    (keyDownEvent k.val s).key[j] = if j = k then true else s.key[j] := by
  rw [← key_setIfInBounds]
  unfold keyDownEvent
  dsimp only
  split_ifs <;> rfl

/-- Settles O42: the snapshot in every run state, and the end of a key wait. -/
theorem keyEventsWriteTheSnapshot : Obligations.KeyEventsWriteTheSnapshot := by
  intro s
  refine ⟨fun k => ⟨_, handleEvent_keyDown k s, fun j => keyDownEvent_key k j s, fun hw => ?_, keyDownEvent_waitReg⟩,
    fun k => ⟨_, handleEvent_keyUp k s, fun j => key_setIfInBounds s k j false, rfl⟩,
    fun k hk => ⟨if_pos hk, if_pos hk⟩⟩
  rw [keyDownEvent_of_not_waiting hw]

/-- Settles O38: in WaitingForKey both ticks are ignored. -/
theorem keyDownDeliversTheWaitedKey : Obligations.KeyDownDeliversTheWaitedKey := by
  intro x s
  refine ⟨_, rfl, rfl, ?_⟩
  rintro w hw rfl
  have hrun : w.run ≠ .running := by rw [hw]; decide
  refine ⟨if_pos hrun, congrArg Host.Outcome.next (timerTick_of_not_running hrun), fun k => ?_, fun k => ?_⟩
  · exact ⟨_, handleEvent_keyUp k w, by rw [keyUpEvent, key_setIfInBounds, if_pos rfl], rfl⟩
  · obtain ⟨hreg, hother, hframe⟩ := keyDownEvent_waitReg (k := k) hw
    exact ⟨_, handleEvent_keyDown k w, hreg, by rw [keyDownEvent_key, if_pos rfl], hother, hframe⟩

/-- Settles O39: the two branches of the timer tick. -/
theorem timerTickCountsOnlyWhileRunning : Obligations.TimerTickCountsOnlyWhileRunning := by
  refine fun s => ⟨_, rfl, timerTick_of_not_running, fun hrun => ?_⟩
  rw [timerTick_of_running hrun]
  exact ⟨countDown_toNat s.dt, countDown_toNat s.st, by simp only [byte_eq_one_iff], rfl⟩

/-- Settles O43: ignored in Halted, else a fault entry with the cause Stopped. -/
theorem stopHaltsAndReportsStopped : Obligations.StopHaltsAndReportsStopped := by
  refine fun s => ⟨_, rfl, stopEvent_of_halted, fun hrun => ?_, fun hrun hs => ?_⟩
  · rw [stopEvent_of_not_halted hrun]
    exact haltsWith_enterFault _ _ _ _ s
  · have hreport := enterFault_writes_report .stopped s.pc 0 0 s hs
    rw [stopEvent_of_not_halted hrun]
    simp [State.isOrderlyStop, State.isFaultState, hs]

/-! ### The reset table -/

theorem unlisted_font {k : Nat} (h : k < 80) : some (Memory.unlisted (0x050 + k)) = Config.font[k]? := by
  have hlen : k < Config.font.length := h
  rw [Memory.unlisted, if_pos (by omega), Nat.add_sub_cancel_left, List.getD_eq_getElem _ _ hlen,
    List.getElem?_eq_getElem hlen]

/-- Settles O52: memory lists nothing at reset, so that every byte reads as unlisted. -/
theorem resetHoldsTheListedValues : Obligations.ResetHoldsTheListedValues := by
  refine ⟨rfl, rfl, rfl, rfl, fun x => ?v, fun k => ?stack, fun k => ?key, fun c _ r _ => cell_blank (c + r * 64), rfl,
    rfl, rfl, rfl, rfl, fun k hk => unlisted_font hk, fun a ha => unlisted_of_outside_font ha⟩
  case v => exact Vector.getElem_replicate x.isLt
  case stack => exact Vector.getElem_replicate k.isLt
  case key => exact Vector.getElem_replicate k.isLt

end Sys2Proof.Machine
